-- ==== Sys2Proof/Word.lean ====
section
/-! DEFINITION. The word type of the core (R5, R9): every register and every memory word is a 16-bit
pattern, and addition is modulo 2^16, which is BitVec's own. -/

namespace Sys2Proof

/-- A register value, a memory word, a word address or an instruction word (R5, R9, R50). -/
abbrev Word := BitVec 16

/-- A character code of the console interfaces (R5, R167; D18, log 28). -/
abbrev Byte := BitVec 8

end Sys2Proof
end

