-- ==== Sys2Proof/Syntax.lean ====
section
/-! DEFINITION. The instructions, one constructor for each row of the opcode table (R98). Bits a
format calls ignored (R100) are no part of an instruction. -/

namespace Sys2Proof

/-- The general registers R0 to R7 (R22). -/
inductive Reg
  | r0 | r1 | r2 | r3 | r4 | r5 | r6 | r7
  deriving DecidableEq, Repr

/-- The 25 rows of the opcode map (R98), 19 instructions with TRAP split by its selector (R103). -/
inductive Instr
  /-- BR, R151: `nzp` is `ir[11:9]`. -/
  | br (nzp : BitVec 3) (off9 : BitVec 9)
  /-- ADD, register form, R121. -/
  | addReg (dr sr1 sr2 : Reg)
  /-- ADD, immediate form, R122. -/
  | addImm (dr sr1 : Reg) (imm5 : BitVec 5)
  /-- LD, R131. -/
  | ld (dr : Reg) (off9 : BitVec 9)
  /-- ST, R135. -/
  | st (sr : Reg) (off9 : BitVec 9)
  /-- JSR, R155. -/
  | jsr (off11 : BitVec 11)
  /-- JSRR, R156. -/
  | jsrr (base : Reg)
  /-- AND, register form, R123. -/
  | andReg (dr sr1 sr2 : Reg)
  /-- AND, immediate form, R124. -/
  | andImm (dr sr1 : Reg) (imm5 : BitVec 5)
  /-- LDR, R133. -/
  | ldr (dr base : Reg) (off6 : BitVec 6)
  /-- STR, R137. -/
  | str (sr base : Reg) (off6 : BitVec 6)
  /-- RTI, R190. -/
  | rti
  /-- NOT, R125. -/
  | not (dr sr : Reg)
  /-- LDI, R132. -/
  | ldi (dr : Reg) (off9 : BitVec 9)
  /-- STI, R136. -/
  | sti (sr : Reg) (off9 : BitVec 9)
  /-- JMP, R153; RET is `jmp r7` (R154). -/
  | jmp (base : Reg)
  /-- RESERVED, opcode 13, R158. -/
  | reserved
  /-- LEA, R134. -/
  | lea (dr : Reg) (off9 : BitVec 9)
  /-- TRAP 0x20, GETC, R168. -/
  | trapGetc
  /-- TRAP 0x21, OUT, R169. -/
  | trapOut
  /-- TRAP 0x22, PUTS, R171. -/
  | trapPuts
  /-- TRAP 0x23, IN, R173. -/
  | trapIn
  /-- TRAP 0x24, PUTSP, R174. -/
  | trapPutsp
  /-- TRAP 0x25, HALT, R176. -/
  | trapHalt
  /-- TRAP, the general row, R165 and R177. -/
  | trap (vect8 : BitVec 8)
  deriving DecidableEq, Repr

end Sys2Proof
end

