-- ==== Sys2Proof/WellFormed.lean ====
section
/-! DEFINITION. Which instructions are the reading of some word. Every register, immediate and offset
is in range by its type, so the one check is on the general TRAP row: the six rows that refine it come
first (R98), so `trap v` stands only for an undefined selector (R177; log 21). -/

namespace Sys2Proof

/-- The six defined service selectors (R165). -/
def definedSelectors : List (BitVec 8) := [0x20#8, 0x21#8, 0x22#8, 0x23#8, 0x24#8, 0x25#8]

/-- Whether the instruction is the reading of some word (R98). -/
def Instr.wf : Instr → Bool
  | .trap v => !definedSelectors.contains v
  | .br _ _ | .addReg _ _ _ | .addImm _ _ _ | .ld _ _ | .st _ _ | .jsr _ | .jsrr _ | .andReg _ _ _
  | .andImm _ _ _ | .ldr _ _ _ | .str _ _ _ | .rti | .not _ _ | .ldi _ _ | .sti _ _ | .jmp _
  | .reserved | .lea _ _ | .trapGetc | .trapOut | .trapPuts | .trapIn | .trapPutsp | .trapHalt => true

end Sys2Proof
end

