-- ==== Sys2Proof/Decode.lean ====
section
/-! DEFINITION. The decoder, from a word to its instruction, and the encoder. Decoding is total (R99,
R103): no word is rejected, and bits a format calls ignored are not read (R100). The positions of the
register fields and of n, z, p are the spec's own choice from general knowledge (R81, G1, G2; log 12). -/

namespace Sys2Proof

/-- The register a 3-bit field names (R22, R97). -/
def Reg.ofBits (b : BitVec 3) : Reg :=
  match b with
  | 0#3 => .r0
  | 1#3 => .r1
  | 2#3 => .r2
  | 3#3 => .r3
  | 4#3 => .r4
  | 5#3 => .r5
  | 6#3 => .r6
  | _ => .r7

/-- The 3-bit field that names a register (R22, R97). -/
def Reg.toBits : Reg → BitVec 3
  | .r0 => 0#3
  | .r1 => 1#3
  | .r2 => 2#3
  | .r3 => 3#3
  | .r4 => 4#3
  | .r5 => 5#3
  | .r6 => 6#3
  | .r7 => 7#3

/-- `v[hi:lo]` with `lo` and the width `hi - lo + 1` given (R8). -/
def field (v : Word) (lo width : Nat) : BitVec width := v.extractLsb' lo width

/-- `ir[15:12]`, the opcode (R80). -/
def opcodeOf (ir : Word) : BitVec 4 := field ir 12 4

/-- The register field at `ir[11:9]`: DR, or SR of a store (R81). -/
def regHigh (ir : Word) : Reg := Reg.ofBits (field ir 9 3)

/-- The register field at `ir[8:6]`: SR1, SR of NOT, BaseR (R81). -/
def regMid (ir : Word) : Reg := Reg.ofBits (field ir 6 3)

/-- The register field at `ir[2:0]`: SR2 (R81). -/
def regLow (ir : Word) : Reg := Reg.ofBits (field ir 0 3)

/-- The row of a TRAP word by its selector, the six services before the general row (R98, R165). -/
def decodeTrap (vect8 : BitVec 8) : Instr :=
  match vect8 with
  | 0x20#8 => .trapGetc
  | 0x21#8 => .trapOut
  | 0x22#8 => .trapPuts
  | 0x23#8 => .trapIn
  | 0x24#8 => .trapPutsp
  | 0x25#8 => .trapHalt
  | v => .trap v

/-- The instruction a word stands for (R80 to R92, R98, R111). -/
def decode (ir : Word) : Instr :=
  match opcodeOf ir with
  | 0b0000#4 => .br (field ir 9 3) (field ir 0 9)
  | 0b0001#4 =>
    if ir.getLsbD 5 then .addImm (regHigh ir) (regMid ir) (field ir 0 5)
    else .addReg (regHigh ir) (regMid ir) (regLow ir)
  | 0b0010#4 => .ld (regHigh ir) (field ir 0 9)
  | 0b0011#4 => .st (regHigh ir) (field ir 0 9)
  | 0b0100#4 => if ir.getLsbD 11 then .jsr (field ir 0 11) else .jsrr (regMid ir)
  | 0b0101#4 =>
    if ir.getLsbD 5 then .andImm (regHigh ir) (regMid ir) (field ir 0 5)
    else .andReg (regHigh ir) (regMid ir) (regLow ir)
  | 0b0110#4 => .ldr (regHigh ir) (regMid ir) (field ir 0 6)
  | 0b0111#4 => .str (regHigh ir) (regMid ir) (field ir 0 6)
  | 0b1000#4 => .rti
  | 0b1001#4 => .not (regHigh ir) (regMid ir)
  | 0b1010#4 => .ldi (regHigh ir) (field ir 0 9)
  | 0b1011#4 => .sti (regHigh ir) (field ir 0 9)
  | 0b1100#4 => .jmp (regMid ir)
  | 0b1101#4 => .reserved
  | 0b1110#4 => .lea (regHigh ir) (field ir 0 9)
  | _ => decodeTrap (field ir 0 8)

/-- The instruction of a word of `nbits` bits numbered as the opcode table numbers them; every
instruction is one 16-bit word (R80), bits above `nbits` are 0. -/
def decodeTableWord (nbits w : Nat) : Option Instr :=
  if nbits ≤ 16 then some (decode (BitVec.ofNat 16 (w % 2 ^ nbits))) else none

/-- Formats OP-REG and OP-IMM (R83, R84): `low` is `ir[5:0]`. -/
def encodeOp (op : BitVec 4) (dr sr1 : Reg) (low : BitVec 6) : Word :=
  op ++ dr.toBits ++ sr1.toBits ++ low

/-- Format PCREL (R85). -/
def encodePcRel (op : BitVec 4) (r : Reg) (off9 : BitVec 9) : Word := op ++ r.toBits ++ off9

/-- Format TRAP with `ir[11:8]` zero (R92). -/
def encodeTrap (vect8 : BitVec 8) : Word := 0b1111#4 ++ 0#4 ++ vect8

/-- A word of the instruction (R82 to R92). Ignored bits are zero, but for `ir[5:0]` of NOT, which are
ones as in the spec's canonical encodings (R100, G6; log 13). -/
def encode : Instr → Word
  | .br nzp off9 => 0b0000#4 ++ nzp ++ off9
  | .addReg dr sr1 sr2 => encodeOp 0b0001#4 dr sr1 (0b0#1 ++ (0b00#2 ++ sr2.toBits))
  | .addImm dr sr1 imm5 => encodeOp 0b0001#4 dr sr1 (0b1#1 ++ imm5)
  | .ld dr off9 => encodePcRel 0b0010#4 dr off9
  | .st sr off9 => encodePcRel 0b0011#4 sr off9
  | .jsr off11 => 0b0100#4 ++ 0b1#1 ++ off11
  | .jsrr base => encodeOp 0b0100#4 .r0 base 0#6
  | .andReg dr sr1 sr2 => encodeOp 0b0101#4 dr sr1 (0b0#1 ++ (0b00#2 ++ sr2.toBits))
  | .andImm dr sr1 imm5 => encodeOp 0b0101#4 dr sr1 (0b1#1 ++ imm5)
  | .ldr dr base off6 => encodeOp 0b0110#4 dr base off6
  | .str sr base off6 => encodeOp 0b0111#4 sr base off6
  | .rti => 0x8000#16
  | .not dr sr => encodeOp 0b1001#4 dr sr 0b111111#6
  | .ldi dr off9 => encodePcRel 0b1010#4 dr off9
  | .sti sr off9 => encodePcRel 0b1011#4 sr off9
  | .jmp base => encodeOp 0b1100#4 .r0 base 0#6
  | .reserved => 0xD000#16
  | .lea dr off9 => encodePcRel 0b1110#4 dr off9
  | .trapGetc => encodeTrap 0x20#8
  | .trapOut => encodeTrap 0x21#8
  | .trapPuts => encodeTrap 0x22#8
  | .trapIn => encodeTrap 0x23#8
  | .trapPutsp => encodeTrap 0x24#8
  | .trapHalt => encodeTrap 0x25#8
  | .trap vect8 => encodeTrap vect8

/-- The "mask" of the instruction's row in the opcode table: the bits that choose the row (R98). -/
def Instr.rowMask : Instr → Word
  | .addReg _ _ _ | .addImm _ _ _ | .andReg _ _ _ | .andImm _ _ _ => 0xF020#16
  | .jsr _ | .jsrr _ => 0xF800#16
  | .trapGetc | .trapOut | .trapPuts | .trapIn | .trapPutsp | .trapHalt => 0xF0FF#16
  | .br _ _ | .ld _ _ | .st _ _ | .ldr _ _ _ | .str _ _ _ | .rti | .not _ _ | .ldi _ _ | .sti _ _
  | .jmp _ | .reserved | .lea _ _ | .trap _ => 0xF000#16

/-- The "match" of the instruction's row in the opcode table: the values of the mask's bits (R98). -/
def Instr.rowMatch : Instr → Word
  | .br _ _ => 0x0000#16
  | .addReg _ _ _ => 0x1000#16
  | .addImm _ _ _ => 0x1020#16
  | .ld _ _ => 0x2000#16
  | .st _ _ => 0x3000#16
  | .jsr _ => 0x4800#16
  | .jsrr _ => 0x4000#16
  | .andReg _ _ _ => 0x5000#16
  | .andImm _ _ _ => 0x5020#16
  | .ldr _ _ _ => 0x6000#16
  | .str _ _ _ => 0x7000#16
  | .rti => 0x8000#16
  | .not _ _ => 0x9000#16
  | .ldi _ _ => 0xA000#16
  | .sti _ _ => 0xB000#16
  | .jmp _ => 0xC000#16
  | .reserved => 0xD000#16
  | .lea _ _ => 0xE000#16
  | .trapGetc => 0xF020#16
  | .trapOut => 0xF021#16
  | .trapPuts => 0xF022#16
  | .trapIn => 0xF023#16
  | .trapPutsp => 0xF024#16
  | .trapHalt => 0xF025#16
  | .trap _ => 0xF000#16

/-- The bits the instruction's format calls ignored (R100). -/
def Instr.ignoredBits : Instr → Word
  | .addReg _ _ _ | .andReg _ _ _ => 0x0018#16
  | .not _ _ => 0x003F#16
  | .jsrr _ => 0x063F#16
  | .jmp _ => 0x0E3F#16
  | .rti | .reserved => 0x0FFF#16
  | .trapGetc | .trapOut | .trapPuts | .trapIn | .trapPutsp | .trapHalt | .trap _ => 0x0F00#16
  | .br _ _ | .addImm _ _ _ | .andImm _ _ _ | .ld _ _ | .st _ _ | .jsr _ | .ldr _ _ _ | .str _ _ _
  | .ldi _ _ | .sti _ _ | .lea _ _ => 0x0000#16

end Sys2Proof
end

