-- ==== Sys2Proof/Config.lean ====
section
/-! DEFINITION. What the spec fixes for one machine without giving its value (R6). The `opaque`
constants are free values: no proof can see them. The two `def`s are the values `State.reset` takes
for the open parameters ORIGIN and PSW_RESET_LOW; `State.boot` takes them as arguments. -/

namespace Sys2Proof.Config

/-- IN_PROMPT, the codes the IN service writes before it reads (R6, R173, D16; log 9). Free value. -/
opaque inPrompt : List Byte

/-- HALT_NOTICE, the codes the HALT service writes before it stops (R6, R176, D16; log 9). Free value. -/
opaque haltNotice : List Byte

/-- The host's answer to the `n`-th poll, for polls past those `State.pollAnswers` lists
(R77, R221, D23; log 6). Free value. -/
opaque pollAnswer (n : Nat) : Bool

/-- ORIGIN as `State.reset` takes it, "conventionally 0x3000" (R6, R43). DESIGN CHOICE, unsafe (log 2). -/
def origin : Word := 0x3000#16

/-- PSW_RESET_LOW as `State.reset` takes it (R6, R45, D6). DESIGN CHOICE, unsafe (log 3). -/
def pswResetLow : BitVec 15 := 0#15

end Sys2Proof.Config
end

