-- ==== Sys2Proof/Machine/State.lean ====
section
/-! DEFINITION. The state of the core as plain data (R20, R49), with the host behind the console held
beside it (R21, R224; log 5, 6, 10), the reasons a step can stop, and the state after reset. -/

namespace Sys2Proof.Machine

/-- The eight general registers (R22). -/
structure Regs where
  r0 : Word
  r1 : Word
  r2 : Word
  r3 : Word
  r4 : Word
  r5 : Word
  r6 : Word
  r7 : Word
  deriving DecidableEq, Repr

/-- Why the run ended (R38). `unrecognizedOpcode` is kept because the source names it and no rule
produces it (R116, R226, D26). -/
inductive Reason
  | none
  | normalHalt
  | privilegeViolation
  | unrecognizedOpcode
  deriving DecidableEq, Repr

/-- Memory, as pairs of a word address and the word stored there (R50; log 1). -/
abbrev Memory := List (Nat × Word)

/-- What an address no pair lists reads as: memory is zero-initialized (R47). -/
def Memory.unlisted : Word := 0x0000#16

/-- The canonical form: addresses inside the 65,536 words and strictly rising, and no pair that says
what an unlisted address reads as anyway. Equal memories are then equal lists. -/
abbrev Memory.wf (m : Memory) : Prop :=
  m.Pairwise (fun x y => x.1 < y.1) ∧ ∀ c ∈ m, c.1 < 65536 ∧ c.2 ≠ Memory.unlisted

/-- Why a step has no next state. -/
inductive Fault
  /-- Raised by `step` when `running` is false: a halted core has no step (R115; log 8). Safe. -/
  | halted
  /-- Raised by GETC and IN when the host has no character left to give: the blocking read never
  returns and the step has no successor (R117, D17; log 7). `output` is the output stream as the host
  has received it when the step blocks, the prompt of IN included (R173; log 26). Safe. -/
  | waitingForInput (output : List Byte)
  deriving DecidableEq, Repr

/-- Why the model does not take something on. No meaning raises any of these. -/
inductive Refusal
  /-- Raised by an arm of `exec` whose instruction has no meaning yet; there is none. Safe. -/
  | notModelled (mnemonic : String)
  /-- Raised by `launch` for an image that does not fit below the top of memory (R243, D21; log 19). Safe. -/
  | imageTooLong
  /-- Raised by `launchFile` for a file with no origin word (R245, D21; log 19). Safe. -/
  | imageFileEmpty
  /-- Raised by `launchFile` for a file with an odd number of bytes (R245, D21; log 19). Safe. -/
  | imageFileOdd
  deriving DecidableEq, Repr

/-- The whole state of the core (R20), and the host behind the console (R21). -/
structure State where
  /-- General registers R0 to R7 (R22). -/
  regs : Regs
  /-- Program counter (R24). -/
  pc : Word
  /-- Condition flags, bit 2 = N, bit 1 = Z, bit 0 = P (R27). -/
  cond : BitVec 3
  /-- Processor-status word, bit 15 the privilege mode (R32). -/
  psw : Word
  /-- Supervisor stack pointer (R35). -/
  ssp : Word
  /-- User stack pointer (R35). -/
  usp : Word
  /-- Running flag (R36). -/
  running : Bool
  /-- Termination reason (R38). -/
  reason : Reason
  /-- The 65,536 memory words (R50). -/
  mem : Memory
  /-- The host's input stream: the characters it will still deliver, first one first (R40, R222). -/
  input : List Byte
  /-- The host's answers to the next polls, first one first (R221, D23). -/
  pollAnswers : List Bool
  /-- The model's own counter: how many polls have been made (log 6). -/
  polls : Nat
  /-- The host's output stream: every code written so far, in program order (R223). -/
  output : List Byte
  deriving DecidableEq, Repr

/-- All eight registers zero (R42). -/
def Regs.zero : Regs := ⟨0#16, 0#16, 0#16, 0#16, 0#16, 0#16, 0#16, 0#16⟩

/-- The state at the first fetch with nothing loaded (R42 to R48, R240), for ORIGIN, PSW_RESET_LOW and
the host's input and poll answers (R6). -/
def State.boot (origin : Word) (pswLow : BitVec 15) (input : List Byte) (pollAnswers : List Bool) : State where
  regs := Regs.zero
  pc := origin
  cond := 0b000#3
  psw := 0x8000#16 ||| pswLow.setWidth 16
  ssp := 0#16
  usp := 0#16
  running := true
  reason := .none
  mem := []
  input := input
  pollAnswers := pollAnswers
  polls := 0
  output := []

/-- The machine right after reset, before a program is loaded from outside (R240; log 2, 3, 5, 6, 19). -/
def State.reset : State := State.boot Config.origin Config.pswResetLow [] []

end Sys2Proof.Machine
end

