-- ==== Sys2Proof/Machine/Ops.lean ====
section
/-! DEFINITION. The shared operations: registers, memory with its one device (R50 to R59), the console
(R221 to R223), fetch (R110), halt (R114), the privilege violation (R203) and the return from it (R191). -/

namespace Sys2Proof.Machine

/-- The word stored at an address (R50). -/
def Memory.load : Memory → Nat → Word
  | [], _ => Memory.unlisted
  | (k, w) :: rest, a => if k = a then w else Memory.load rest a

/-- Memory with no pair for an address. -/
def Memory.erase : Memory → Nat → Memory
  | [], _ => []
  | (k, w) :: rest, a => if k = a then Memory.erase rest a else (k, w) :: Memory.erase rest a

/-- One pair put in its place by address. -/
def Memory.insert : Memory → Nat → Word → Memory
  | [], a, v => [(a, v)]
  | (k, w) :: rest, a, v => if a < k then (a, v) :: (k, w) :: rest else (k, w) :: Memory.insert rest a v

/-- Memory with `v` stored at an address (R55), in canonical form again: what an unlisted address reads as
anyway is not listed. -/
def Memory.store (m : Memory) (a : Nat) (v : Word) : Memory :=
  if v = Memory.unlisted then Memory.erase m a else Memory.insert (Memory.erase m a) a v

/-- The general register a name stands for (R22). -/
def Regs.get (g : Regs) : Reg → Word
  | .r0 => g.r0
  | .r1 => g.r1
  | .r2 => g.r2
  | .r3 => g.r3
  | .r4 => g.r4
  | .r5 => g.r5
  | .r6 => g.r6
  | .r7 => g.r7

/-- The registers with one of them replaced; none is hard-wired (R22). -/
def Regs.set (g : Regs) (r : Reg) (v : Word) : Regs :=
  match r with
  | .r0 => { g with r0 := v }
  | .r1 => { g with r1 := v }
  | .r2 => { g with r2 := v }
  | .r3 => { g with r3 := v }
  | .r4 => { g with r4 := v }
  | .r5 => { g with r5 := v }
  | .r6 => { g with r6 := v }
  | .r7 => { g with r7 := v }

namespace State

/-- `x[i]` (R11). -/
def reg (s : State) (r : Reg) : Word := s.regs.get r

/-- `x[i] <- v` (R11). -/
def setReg (s : State) (r : Reg) (v : Word) : State := { s with regs := s.regs.set r v }

/-- `pc <- v` (R11, R26). -/
def setPc (s : State) (v : Word) : State := { s with pc := v }

/-- `cond <- c` (R29). -/
def setCond (s : State) (c : BitVec 3) : State := { s with cond := c }

/-- `psw <- v` (R32). -/
def setPsw (s : State) (v : Word) : State := { s with psw := v }

/-- `psw[15] = 1`: User mode (R34, R215). -/
def userMode (s : State) : Bool := s.psw.getLsbD 15

/-- `MemPeek(a)`: the stored word, no device action (R56). -/
def memPeek (s : State) (a : Word) : Word := s.mem.load a.toNat

/-- `MemWrite(a, 16, v)`: a plain store at every address (R55). -/
def memWrite (s : State) (a v : Word) : State := { s with mem := s.mem.store a.toNat v }

/-- `ConsoleWrite(b)` for each code of the list in order, always accepted (R223, D28; log 10). -/
def consoleWrite (s : State) (bs : List Byte) : State := { s with output := s.output ++ bs }

/-- The host's own say at the next poll: the scripted answer, or the free value where none is left
(R77, D23; log 6). -/
def hostAnswer (s : State) : Bool :=
  match s.pollAnswers with
  | a :: _ => a
  | [] => Config.pollAnswer s.polls

/-- `ConsolePoll()` with the character it promises: `some c` when the poll answers true, and `c` is then
the next character of the input stream; where no character is left the answer is false (R221, R222, D17,
D23). It consumes nothing. -/
def consolePoll (s : State) : Option Byte :=
  match s.input with
  | [] => none
  | c :: _ => if s.hostAnswer then some c else none

/-- The poll has been made: the host's next answer is for the next poll (D23). -/
def nextPoll (s : State) : State :=
  { s with pollAnswers := s.pollAnswers.tail, polls := s.polls + 1 }

/-- The first character of the input stream is taken from it (R222). -/
def dropInput (s : State) : State := { s with input := s.input.tail }

/-- `ConsoleRead()`, blocking: `none` where the host never supplies a character (R117, R222, D17). -/
def consoleRead (s : State) : Option (Byte × State) :=
  match s.input with
  | [] => none
  | c :: _ => some (c, s.dropInput)

/-- Address of the keyboard status register KBSR (R5, R58). -/
def kbsr : Word := 0xFE00#16

/-- Address of the keyboard data register KBDR (R5, R58). -/
def kbdr : Word := 0xFE02#16

/-- The keyboard ready value (R5). -/
def kbReady : Word := 0x8000#16

/-- What a read of KBSR does before it returns the word (R54): ready: KBSR takes the ready value and
KBDR the next character, which is consumed; not ready: KBSR takes zero and KBDR stays. -/
def pollKeyboard (s : State) : State :=
  match s.consolePoll with
  | some c => ((s.nextPoll.memWrite kbsr kbReady).memWrite kbdr (c.setWidth 16)).dropInput
  | none => s.nextPoll.memWrite kbsr 0x0000#16

/-- The state after a `MemRead` of the address: only KBSR has a read side effect (R54, R70). -/
def afterRead (s : State) (a : Word) : State := if a = kbsr then s.pollKeyboard else s

/-- `MemRead(a, 16)`: the word and the state after the device action (R54). -/
def memRead (s : State) (a : Word) : Word × State := ((s.afterRead a).memPeek a, s.afterRead a)

/-- Fetch and increment (R110): the instruction word, and the state in which it executes. -/
def fetch (s : State) : Word × State :=
  let f := s.memRead s.pc
  (f.1, f.2.setPc (f.2.pc + 1#16))

/-- `halt(r)` (R114). -/
def halt (s : State) (r : Reason) : State := { s with running := false, reason := r }

/-- The fixed address the privilege violation loads into the pc (R5, R203). -/
def violationVector : Word := 0x0100#16

/-- Push a word on the stack R6 points to, pre-decrementing (R203). -/
def push (s : State) (v : Word) : State :=
  let t := s.setReg .r6 (s.reg .r6 - 1#16)
  t.memWrite (t.reg .r6) v

/-- `raise PrivilegeViolation()`, in the order of its pseudocode (R203, R204; log 17). -/
def raisePrivilegeViolation (s : State) : State :=
  let s1 := s.setPsw (s.psw &&& 0x7FFF#16)
  let s2 := s1.setReg .r6 s1.ssp
  let s3 := s2.push s2.psw
  let s4 := s3.push s3.pc
  (s4.setPc violationVector).halt .privilegeViolation

/-- Pop the word R6 points to and increment R6 (R191). -/
def pop (s : State) : Word × State :=
  let p := s.memRead (s.reg .r6)
  (p.1, p.2.setReg .r6 (p.2.reg .r6 + 1#16))

/-- The return from exception: RTI in Supervisor mode, in the order of its pseudocode (R191; log 16). -/
def returnFromException (s : State) : State :=
  let p := s.pop
  let s1 := p.2.setPc p.1
  let q := s1.pop
  let s2 := q.2.setPsw q.1
  s2.setReg .r6 s2.usp

end State

end Sys2Proof.Machine
end

