-- ==== Sys2Proof/Machine/Flags.lean ====
section
/-! DEFINITION. The condition flags: N = 0b100, Z = 0b010, P = 0b001 (R27), what `setcc` makes of a
value (R29), and BR's test (R151). -/

namespace Sys2Proof.Machine

/-- The flags `setcc(v)` leaves (R29). -/
def flagsOf (v : Word) : BitVec 3 :=
  if v = 0x0000#16 then 0b010#3
  else if v.getLsbD 15 then 0b100#3
  else 0b001#3

/-- `(ir[11:9] & cond) != 0b000`: BR's test (R151). -/
def branchTaken (nzp cond : BitVec 3) : Bool := (nzp &&& cond) != 0b000#3

namespace State

/-- `setcc(v)` (R29). -/
def setcc (s : State) (v : Word) : State := s.setCond (flagsOf v)

/-- `x[DR] <- v; setcc(v)`, the end of the seven flag-setting instructions (R28). -/
def writeDest (s : State) (dr : Reg) (v : Word) : State := (s.setReg dr v).setcc v

end State

end Sys2Proof.Machine
end

