-- ==== Sys2Proof/Machine/Operands.lean ====
section
/-! DEFINITION. Operand forms: sign extension of the immediates and offsets (R10, R93 to R97), the bytes
of a word (R65, R167), and the four addressing modes (R130). -/

namespace Sys2Proof.Machine

/-- `sext_N(v)` (R10). -/
def sext {n : Nat} (v : BitVec n) : Word := v.signExtend 16

/-- `zext_N(v)` (R10). -/
def zext {n : Nat} (v : BitVec n) : Word := v.setWidth 16

/-- `w[7:0]` (R65). -/
def lowByte (w : Word) : Byte := w.extractLsb' 0 8

/-- `w[15:8]` (R65). -/
def highByte (w : Word) : Byte := w.extractLsb' 8 8

namespace State

/-- `pc + sext_9(off)`, `pc` the incremented PC: PC-relative (R96, R130). -/
def pcRel9 (s : State) (off9 : BitVec 9) : Word := s.pc + sext off9

/-- `pc + sext_11(off)`, `pc` the incremented PC: the target of JSR (R97, R155). -/
def pcRel11 (s : State) (off11 : BitVec 11) : Word := s.pc + sext off11

/-- `x[BaseR] + sext_6(off)`: base plus offset (R95, R130). -/
def baseOff6 (s : State) (base : Reg) (off6 : BitVec 6) : Word := s.reg base + sext off6

/-- The pointer LDI and STI read at `pc + sext_9(off)`, a device-aware read, and the state after that
read: indirect (R130, R132, R136). -/
def pointer9 (s : State) (off9 : BitVec 9) : Word × State := s.memRead (s.pcRel9 off9)

end State

end Sys2Proof.Machine
end

