-- ==== Sys2Proof/Machine/Control.lean ====
section
/-! DEFINITION. The control instructions BR, JMP, JSR, JSRR, RESERVED (43_control.md) and RTI (45_rti.md). -/

namespace Sys2Proof.Machine

/-- BR (R151). -/
def execBr (nzp : BitVec 3) (off9 : BitVec 9) (s : State) : Host.Outcome State Fault Refusal :=
  .next (if branchTaken nzp s.cond then s.setPc (s.pcRel9 off9) else s)

/-- JMP, and RET with BaseR = R7 (R153, R154). -/
def execJmp (base : Reg) (s : State) : Host.Outcome State Fault Refusal :=
  .next (s.setPc (s.reg base))

/-- JSR (R155): R7 takes the incremented PC. -/
def execJsr (off11 : BitVec 11) (s : State) : Host.Outcome State Fault Refusal :=
  let linked := s.setReg .r7 s.pc
  .next (linked.setPc (linked.pcRel11 off11))

/-- JSRR (R156): R7 is written before BaseR is read (log 14). -/
def execJsrr (base : Reg) (s : State) : Host.Outcome State Fault Refusal :=
  let linked := s.setReg .r7 s.pc
  .next (linked.setPc (linked.reg base))

/-- RESERVED, opcode 13: no effect (R158). -/
def execReserved (s : State) : Host.Outcome State Fault Refusal := .next s

/-- RTI (R190): the return in Supervisor mode (R191), the privilege violation in User mode (R192). -/
def execRti (s : State) : Host.Outcome State Fault Refusal :=
  if s.userMode then .next s.raisePrivilegeViolation else .next s.returnFromException

end Sys2Proof.Machine
end

