-- ==== Sys2Proof/Machine/DataMovement.lean ====
section
/-! DEFINITION. The data movement instructions LD, LDI, LDR, LEA, ST, STI, STR (42_data_movement.md). -/

namespace Sys2Proof.Machine

/-- The end of the three loads: a device-aware read of the effective address into DR, and the flags. -/
def State.loadInto (s : State) (dr : Reg) (ea : Word) : State :=
  let m := s.memRead ea
  m.2.writeDest dr m.1

/-- LD (R131). -/
def execLd (dr : Reg) (off9 : BitVec 9) (s : State) : Host.Outcome State Fault Refusal :=
  .next (s.loadInto dr (s.pcRel9 off9))

/-- LDI (R132): the pointer first, then the data, both device-aware. -/
def execLdi (dr : Reg) (off9 : BitVec 9) (s : State) : Host.Outcome State Fault Refusal :=
  let p := s.pointer9 off9
  .next (p.2.loadInto dr p.1)

/-- LDR (R133). -/
def execLdr (dr base : Reg) (off6 : BitVec 6) (s : State) : Host.Outcome State Fault Refusal :=
  .next (s.loadInto dr (s.baseOff6 base off6))

/-- LEA (R134): the address itself, and the flags. -/
def execLea (dr : Reg) (off9 : BitVec 9) (s : State) : Host.Outcome State Fault Refusal :=
  .next (s.writeDest dr (s.pcRel9 off9))

/-- ST (R135). -/
def execSt (sr : Reg) (off9 : BitVec 9) (s : State) : Host.Outcome State Fault Refusal :=
  .next (s.memWrite (s.pcRel9 off9) (s.reg sr))

/-- STI (R136): the pointer is read, device-aware, before the store. -/
def execSti (sr : Reg) (off9 : BitVec 9) (s : State) : Host.Outcome State Fault Refusal :=
  let p := s.pointer9 off9
  .next (p.2.memWrite p.1 (p.2.reg sr))

/-- STR (R137). -/
def execStr (sr base : Reg) (off6 : BitVec 6) (s : State) : Host.Outcome State Fault Refusal :=
  .next (s.memWrite (s.baseOff6 base off6) (s.reg sr))

end Sys2Proof.Machine
end

