-- ==== Sys2Proof/Machine/Trap.lean ====
section
/-! DEFINITION. TRAP and the six console services (44_trap.md). A service runs inside the one step; none
writes R7, pc, psw or cond (R166). -/

namespace Sys2Proof.Machine

/-- How many words a string scan examines at most: one pass of memory (R170, D11; log 18). -/
def scanBound : Nat := 65536

namespace State

/-- The codes PUTS writes, scanning at most the given number of words from an address: the low byte of
each word until a zero word (R171). -/
def putsCodes (s : State) : Nat → Word → List Byte
  | 0, _ => []
  | n + 1, a =>
    let w := s.memPeek a
    if w = 0x0000#16 then [] else lowByte w :: s.putsCodes n (a + 1#16)

/-- The codes PUTSP writes, scanning at most the given number of words from an address: the low byte and
then the high byte of each word until the first zero byte (R174, R175). -/
def putspCodes (s : State) : Nat → Word → List Byte
  | 0, _ => []
  | n + 1, a =>
    let w := s.memPeek a
    if lowByte w = 0x00#8 then []
    else if highByte w = 0x00#8 then [lowByte w]
    else lowByte w :: highByte w :: s.putspCodes n (a + 1#16)

/-- `c <- ConsoleRead(); x[0] <- zext_8(c)` and then the codes `echo c`: GETC, and the second part of IN.
A read that never returns has no next state (R117, R168, R173; log 7, 26). -/
def readChar (s : State) (echo : Bool) : Host.Outcome State Fault Refusal :=
  match s.consoleRead with
  | none => .fault (.waitingForInput s.output)
  | some (c, t) =>
    let u := t.setReg .r0 (zext c)
    .next (if echo then u.consoleWrite [c] else u)

/-- GETC, selector 0x20 (R168). -/
def serviceGetc (s : State) : Host.Outcome State Fault Refusal := s.readChar false

/-- OUT, selector 0x21 (R169). -/
def serviceOut (s : State) : Host.Outcome State Fault Refusal :=
  .next (s.consoleWrite [lowByte (s.reg .r0)])

/-- PUTS, selector 0x22 (R170, R171). -/
def servicePuts (s : State) : Host.Outcome State Fault Refusal :=
  .next (s.consoleWrite (s.putsCodes scanBound (s.reg .r0)))

/-- IN, selector 0x23 (R173). -/
def serviceIn (s : State) : Host.Outcome State Fault Refusal :=
  (s.consoleWrite Config.inPrompt).readChar true

/-- PUTSP, selector 0x24 (R170, R174). -/
def servicePutsp (s : State) : Host.Outcome State Fault Refusal :=
  .next (s.consoleWrite (s.putspCodes scanBound (s.reg .r0)))

/-- HALT, selector 0x25 (R176). -/
def serviceHalt (s : State) : Host.Outcome State Fault Refusal :=
  .next ((s.consoleWrite Config.haltNotice).halt .normalHalt)

end State

/-- TRAP GETC (R168). -/
def execTrapGetc (s : State) : Host.Outcome State Fault Refusal := s.serviceGetc

/-- TRAP OUT (R169). -/
def execTrapOut (s : State) : Host.Outcome State Fault Refusal := s.serviceOut

/-- TRAP PUTS (R171). -/
def execTrapPuts (s : State) : Host.Outcome State Fault Refusal := s.servicePuts

/-- TRAP IN (R173). -/
def execTrapIn (s : State) : Host.Outcome State Fault Refusal := s.serviceIn

/-- TRAP PUTSP (R174). -/
def execTrapPutsp (s : State) : Host.Outcome State Fault Refusal := s.servicePutsp

/-- TRAP HALT (R176). -/
def execTrapHalt (s : State) : Host.Outcome State Fault Refusal := s.serviceHalt

/-- TRAP, the general row: dispatch on the selector (R165); an undefined selector does nothing (R177). -/
def execTrap (vect8 : BitVec 8) (s : State) : Host.Outcome State Fault Refusal :=
  match vect8 with
  | 0x20#8 => s.serviceGetc
  | 0x21#8 => s.serviceOut
  | 0x22#8 => s.servicePuts
  | 0x23#8 => s.serviceIn
  | 0x24#8 => s.servicePutsp
  | 0x25#8 => s.serviceHalt
  | _ => .next s

end Sys2Proof.Machine
end

