-- ==== Sys2Proof/Machine/Step.lean ====
section
/-! DEFINITION. One step: fetch, increment, execute, while the core runs (R110 to R115). -/

namespace Sys2Proof.Machine

/-- One step (R110). A halted core has none (R115; log 8). -/
def step (s : State) : Host.Outcome State Fault Refusal :=
  if s.running then exec (decode s.fetch.1) s.fetch.2 else .fault .halted

/-- The state with an instruction word of `nbits` bits stored where `step` fetches its next instruction,
as the load interface would have put it there (R241; log 19, 20). -/
def State.withFetchWord (s : State) (nbits w : Nat) : State :=
  s.memWrite s.pc (BitVec.ofNat 16 (w % 2 ^ nbits))

end Sys2Proof.Machine
end

