-- ==== Sys2Proof/Machine/Launch.lean ====
section
/-! DEFINITION. The load interface, used once before execution (R241 to R245): how a program comes to run
(log 19). `step` never calls it. -/

namespace Sys2Proof.Machine

/-- Consecutive words stored from an address on, plain stores (R242, R245). -/
def State.loadImage (s : State) (a : Word) : List Word → State
  | [] => s
  | w :: ws => (s.memWrite a w).loadImage (a + 1#16) ws

/-- The state at the first fetch with an image loaded (R240), refused where the image does not fit below
the top of memory (R243, D21). -/
def launch (origin : Word) (image : List Word) (pswLow : BitVec 15) (input : List Byte)
    (pollAnswers : List Bool) : Host.Outcome State Fault Refusal :=
  if origin.toNat + image.length ≤ 0x10000 then
    .next ((State.boot origin pswLow input pollAnswers).loadImage origin image)
  else .refused .imageTooLong

/-- A file's bytes as big-endian words; `none` where one byte is left over (R65, R242). -/
def wordsOfBytes : List Byte → Option (List Word)
  | [] => some []
  | [_] => none
  | hi :: lo :: rest => (wordsOfBytes rest).map ((hi ++ lo) :: ·)

/-- The launch of an image file: the first word is the origin (R242); an odd byte count and a file with no
origin word are refused (R245, D21). -/
def launchFile (bytes : List Byte) (pswLow : BitVec 15) (input : List Byte) (pollAnswers : List Bool) :
    Host.Outcome State Fault Refusal :=
  match wordsOfBytes bytes with
  | none => .refused .imageFileOdd
  | some [] => .refused .imageFileEmpty
  | some (origin :: image) => launch origin image pswLow input pollAnswers

end Sys2Proof.Machine
end

