-- ==== Sys2Proof/Safety.lean ====
section
/-! DEFINITION. The terms claims use: what an instruction leaves unchanged, what a device-aware read may
leave behind, the shapes of an instruction's effect, the invariant of the core, and launched states. -/

namespace Sys2Proof.Machine

/-- `cond` says the sign of `v`, exactly one flag set (R29, R30). -/
structure FlagsFollow (v : Word) (cond : BitVec 3) : Prop where
  zero : v = 0x0000#16 → cond = 0b010#3
  negative : v.getLsbD 15 = true → cond = 0b100#3
  positive : v ≠ 0x0000#16 → v.getLsbD 15 = false → cond = 0b001#3

/-- Every general register but the listed ones holds what it held. -/
def SameRegsBut (ds : List Reg) (s t : State) : Prop := ∀ r, r ∉ ds → t.reg r = s.reg r

/-- Every memory word but those at the listed addresses reads as it read. -/
def SameMemoryBut (as : List Word) (s t : State) : Prop := ∀ a, a ∉ as → t.memPeek a = s.memPeek a

/-- The three privilege-support registers (R31) hold what they held. -/
structure SamePrivilege (s t : State) : Prop where
  psw : t.psw = s.psw
  ssp : t.ssp = s.ssp
  usp : t.usp = s.usp

/-- Running flag and termination reason (R36, R38) hold what they held. -/
structure SameRun (s t : State) : Prop where
  running : t.running = s.running
  reason : t.reason = s.reason

/-- No console transaction was made (R221 to R223). -/
structure SameHost (s t : State) : Prop where
  input : t.input = s.input
  pollAnswers : t.pollAnswers = s.pollAnswers
  polls : t.polls = s.polls
  output : t.output = s.output

/-- What a `MemRead` of `a` may leave behind in `m` (R54): nothing unless `a` is 0xFE00; there the poll's
words, and a consumed character where the host was ready. The word read is `m.memPeek a`. -/
structure ReadLeaves (s : State) (a : Word) (m : State) : Prop where
  regs : SameRegsBut [] s m
  pc : m.pc = s.pc
  cond : m.cond = s.cond
  privilege : SamePrivilege s m
  run : SameRun s m
  output : m.output = s.output
  plain : a ≠ 0xFE00#16 → SameMemoryBut [] s m ∧ SameHost s m
  polled : a = 0xFE00#16 → m.pollAnswers = s.pollAnswers.tail ∧ m.polls = s.polls + 1
  notReady : a = 0xFE00#16 → s.consolePoll = none →
    m.memPeek 0xFE00#16 = 0x0000#16 ∧ SameMemoryBut [0xFE00#16] s m ∧ m.input = s.input
  ready : a = 0xFE00#16 → ∀ c, s.consolePoll = some c →
    m.memPeek 0xFE00#16 = 0x8000#16 ∧ m.memPeek 0xFE02#16 = zext c ∧
      SameMemoryBut [0xFE00#16, 0xFE02#16] s m ∧ s.input = c :: m.input

/-- From `s` to `t`, register `dr` takes `v`, the flags take its sign, and nothing else changes (R126). -/
structure ResultWritten (s t : State) (dr : Reg) (v : Word) : Prop where
  result : t.reg dr = v
  flags : FlagsFollow v t.cond
  regs : SameRegsBut [dr] s t
  pc : t.pc = s.pc
  privilege : SamePrivilege s t
  run : SameRun s t
  memory : SameMemoryBut [] s t
  host : SameHost s t

/-- From `s` to `t`, the word at `a` becomes `v` and nothing else changes (R138). -/
structure WordStored (s t : State) (a v : Word) : Prop where
  stored : t.memPeek a = v
  memory : SameMemoryBut [a] s t
  regs : SameRegsBut [] s t
  cond : t.cond = s.cond
  pc : t.pc = s.pc
  privilege : SamePrivilege s t
  run : SameRun s t
  host : SameHost s t

/-- From `s` to `t`, the registers listed may change, `pc` becomes `v`, and nothing else changes (R159). -/
structure Jumped (s t : State) (ds : List Reg) (v : Word) : Prop where
  pc : t.pc = v
  regs : SameRegsBut ds s t
  cond : t.cond = s.cond
  privilege : SamePrivilege s t
  run : SameRun s t
  memory : SameMemoryBut [] s t
  host : SameHost s t


/-- The destination register of an instruction that sets the flags from it: ADD, AND, NOT, LD, LDR, LDI,
LEA, and no other (R28). -/
def flagDest : Instr → Option Reg
  | .addReg dr _ _ | .addImm dr _ _ | .andReg dr _ _ | .andImm dr _ _ | .not dr _ | .ld dr _
  | .ldr dr _ _ | .ldi dr _ | .lea dr _ => some dr
  | .br _ _ | .st _ _ | .jsr _ | .jsrr _ | .str _ _ _ | .rti | .sti _ _ | .jmp _ | .reserved
  | .trapGetc | .trapOut | .trapPuts | .trapIn | .trapPutsp | .trapHalt | .trap _ => none

/-- The general registers an instruction may write: its destination register, and the implicit ones, R7 by
JSR and JSRR, R6 by RTI, R0 by GETC and IN (R23, R28). -/
def regsWritten : Instr → List Reg
  | .addReg dr _ _ | .addImm dr _ _ | .andReg dr _ _ | .andImm dr _ _ | .not dr _ | .ld dr _
  | .ldr dr _ _ | .ldi dr _ | .lea dr _ => [dr]
  | .jsr _ | .jsrr _ => [.r7]
  | .rti => [.r6]
  | .trapGetc | .trapIn => [.r0]
  | .trap v => if v = 0x20#8 ∨ v = 0x23#8 then [.r0] else []
  | .br _ _ | .st _ _ | .str _ _ _ | .sti _ _ | .jmp _ | .reserved | .trapOut | .trapPuts | .trapPutsp
  | .trapHalt => []

/-- The instructions that write `pc` beyond the fetch increment (R26). -/
def writesPc : Instr → Bool
  | .br _ _ | .jsr _ | .jsrr _ | .jmp _ | .rti => true
  | .addReg _ _ _ | .addImm _ _ _ | .andReg _ _ _ | .andImm _ _ _ | .not _ _ | .ld _ _ | .ldr _ _ _
  | .ldi _ _ | .lea _ _ | .st _ _ | .str _ _ _ | .sti _ _ | .reserved | .trapGetc | .trapOut | .trapPuts
  | .trapIn | .trapPutsp | .trapHalt | .trap _ => false

/-- The instructions that run the HALT service (R165, R176). -/
def isHalt : Instr → Bool
  | .trapHalt => true
  | .trap v => v == 0x25#8
  | .br _ _ | .jsr _ | .jsrr _ | .jmp _ | .rti | .addReg _ _ _ | .addImm _ _ _ | .andReg _ _ _
  | .andImm _ _ _ | .not _ _ | .ld _ _ | .ldr _ _ _ | .ldi _ _ | .lea _ _ | .st _ _ | .str _ _ _
  | .sti _ _ | .reserved | .trapGetc | .trapOut | .trapPuts | .trapIn | .trapPutsp => false

/-- The addresses an instruction stores to, `s` the state after the fetch: ST, STI, STR, and the two pushes
of the privilege violation (R57). -/
def storeAddrs (i : Instr) (s : State) : List Word :=
  match i with
  | .st _ off9 => [s.pcRel9 off9]
  | .sti _ off9 => [(s.pointer9 off9).1]
  | .str _ base off6 => [s.baseOff6 base off6]
  | .rti => if s.userMode then [s.ssp - 1#16, s.ssp - 2#16] else []
  | .br _ _ | .jsr _ | .jsrr _ | .jmp _ | .addReg _ _ _ | .addImm _ _ _ | .andReg _ _ _ | .andImm _ _ _
  | .not _ _ | .ld _ _ | .ldr _ _ _ | .ldi _ _ | .lea _ _ | .reserved | .trapGetc | .trapOut | .trapPuts
  | .trapIn | .trapPutsp | .trapHalt | .trap _ => []

/-- The register whose word an instruction stores: SR of ST, STI, STR (R135 to R137). -/
def storedReg : Instr → Option Reg
  | .st sr _ | .sti sr _ | .str sr _ _ => some sr
  | .br _ _ | .jsr _ | .jsrr _ | .jmp _ | .rti | .addReg _ _ _ | .addImm _ _ _ | .andReg _ _ _
  | .andImm _ _ _ | .not _ _ | .ld _ _ | .ldr _ _ _ | .ldi _ _ | .lea _ _ | .reserved | .trapGetc | .trapOut
  | .trapPuts | .trapIn | .trapPutsp | .trapHalt | .trap _ => none

/-- The addresses an instruction reads through `MemRead`, `s` the state after the fetch (R57). -/
def readAddrs (i : Instr) (s : State) : List Word :=
  match i with
  | .ld _ off9 => [s.pcRel9 off9]
  | .ldi _ off9 => [s.pcRel9 off9, (s.pointer9 off9).1]
  | .ldr _ base off6 => [s.baseOff6 base off6]
  | .sti _ off9 => [s.pcRel9 off9]
  | .rti => if s.userMode then [] else [s.reg .r6, s.reg .r6 + 1#16]
  | .br _ _ | .jsr _ | .jsrr _ | .jmp _ | .addReg _ _ _ | .addImm _ _ _ | .andReg _ _ _ | .andImm _ _ _
  | .not _ _ | .lea _ _ | .st _ _ | .str _ _ _ | .reserved | .trapGetc | .trapOut | .trapPuts | .trapIn
  | .trapPutsp | .trapHalt | .trap _ => []

/-- `psw` replaced in the next state of an outcome; a stop stays as it is. -/
def withPsw (o : Host.Outcome State Fault Refusal) (p : Word) : Host.Outcome State Fault Refusal :=
  match o with
  | .next t => .next (t.setPsw p)
  | .fault f => .fault f
  | .refused r => .refused r

/-- Exactly one flag is set (R30). -/
def OneFlag (cond : BitVec 3) : Prop := cond = 0b100#3 ∨ cond = 0b010#3 ∨ cond = 0b001#3

/-- What every step keeps: memory is in canonical form; one flag is set, or none as from reset until the
first flag-setting instruction (R30, R44); `reason` is None exactly while the core runs, and is never
UnrecognizedOpcode (R38). -/
structure State.Inv (s : State) : Prop where
  memory : s.mem.wf
  flags : s.cond = 0b000#3 ∨ OneFlag s.cond
  running_iff : s.running = true ↔ s.reason = .none
  recognized : s.reason ≠ .unrecognizedOpcode

/-- A state at the first fetch, for some image and some host (R6, R240). -/
def Launched (s : State) : Prop :=
  ∃ origin image pswLow input pollAnswers, launch origin image pswLow input pollAnswers = .next s

/-- What a run from launch with `psw = p` keeps (R35, R193): both stack-pointer registers at 0x0000, `p` a User
mode word, and `psw` still `p` while the core runs. -/
structure UserRun (p : Word) (s : State) : Prop where
  ssp : s.ssp = 0x0000#16
  usp : s.usp = 0x0000#16
  user : p.getLsbD 15 = true
  psw : s.running = true → s.psw = p

/-- What a halted core shows the host when its last instruction ran with `psw = p` and incremented PC `ret` (R226,
R227): a normal halt with the PC after the HALT, or the privilege violation with its frame at the top of memory,
the cleared PSW at 0xFFFF and the saved PC at 0xFFFE (R203, R249). -/
inductive HaltReport (p ret : Word) (t : State) : Prop
  | normal (reason : t.reason = .normalHalt) (psw : t.psw = p) (pc : t.pc = ret)
  | violation (reason : t.reason = .privilegeViolation) (psw : t.psw = p &&& 0x7FFF#16) (pc : t.pc = 0x0100#16)
      (r6 : t.reg .r6 = 0xFFFE#16) (savedPsw : t.memPeek 0xFFFF#16 = t.psw) (savedPc : t.memPeek 0xFFFE#16 = ret)

/-- The byte that stands `k`-th in a packed string, low byte of each word first (R174). -/
def packedByte (s : State) (a : Word) (k : Nat) : Byte :=
  let w := s.memPeek (a + BitVec.ofNat 16 (k / 2))
  if k % 2 = 0 then w.extractLsb' 0 8 else w.extractLsb' 8 8

end Sys2Proof.Machine
end

