-- ==== Sys2Proof/Certificates/Slice0/Obligations.lean ====
section
/-! DEFINITION. The statements, from the spec's numbered rules. In every statement about one instruction `s`
is the state after fetch and increment, so `s.pc` is the incremented PC (R110, R119), and the first clause
says which words are that instruction and where its fields stand. What rests on a choice, the spec's own (D<n>
of 92_eei_decisions.md) or this model's (log <n>), is said at the statement; the encoding of `cond` that
`FlagsFollow` and `OneFlag` use is the spec's D4 (log 12), that `psw` and `cond` never copy into each other its D7
(log 23), and the character that `ReadLeaves` latches its D18 (log 28). -/

open Sys2Proof Sys2Proof.Machine

/-! ### Operate instructions (41) -/

/-- R121: ADD, register form. Positions of register fields: the spec's D3 (log
12); bits of the format that are ignored: its D2 (log 13). -/
def Obligations.AddRegister : Prop :=
  (∀ w : Word, w &&& 0xF020#16 = 0x1000#16 → decode w =
    .addReg (Reg.ofBits (w.extractLsb' 9 3)) (Reg.ofBits (w.extractLsb' 6 3)) (Reg.ofBits (w.extractLsb' 0 3))) ∧
  ∀ (dr sr1 sr2 : Reg) (s : State), ∃ t, exec (.addReg dr sr1 sr2) s = .next t ∧
    ResultWritten s t dr (s.reg sr1 + s.reg sr2)

/-- R122: ADD, immediate form, the immediate sign-extended. Positions of register fields: the spec's D3 (log 12). -/
def Obligations.AddImmediate : Prop :=
  (∀ w : Word, w &&& 0xF020#16 = 0x1020#16 → decode w =
    .addImm (Reg.ofBits (w.extractLsb' 9 3)) (Reg.ofBits (w.extractLsb' 6 3)) (w.extractLsb' 0 5)) ∧
  ∀ (dr sr1 : Reg) (imm5 : BitVec 5) (s : State), ∃ t, exec (.addImm dr sr1 imm5) s = .next t ∧
    ResultWritten s t dr (s.reg sr1 + sext imm5)

/-- R123: AND, register form. Positions of register fields: the spec's D3 (log
12); bits of the format that are ignored: its D2 (log 13). -/
def Obligations.AndRegister : Prop :=
  (∀ w : Word, w &&& 0xF020#16 = 0x5000#16 → decode w =
    .andReg (Reg.ofBits (w.extractLsb' 9 3)) (Reg.ofBits (w.extractLsb' 6 3)) (Reg.ofBits (w.extractLsb' 0 3))) ∧
  ∀ (dr sr1 sr2 : Reg) (s : State), ∃ t, exec (.andReg dr sr1 sr2) s = .next t ∧
    ResultWritten s t dr (s.reg sr1 &&& s.reg sr2)

/-- R124: AND, immediate form, the immediate sign-extended. Positions of register fields: the spec's D3 (log 12). -/
def Obligations.AndImmediate : Prop :=
  (∀ w : Word, w &&& 0xF020#16 = 0x5020#16 → decode w =
    .andImm (Reg.ofBits (w.extractLsb' 9 3)) (Reg.ofBits (w.extractLsb' 6 3)) (w.extractLsb' 0 5)) ∧
  ∀ (dr sr1 : Reg) (imm5 : BitVec 5) (s : State), ∃ t, exec (.andImm dr sr1 imm5) s = .next t ∧
    ResultWritten s t dr (s.reg sr1 &&& sext imm5)

/-- R125: NOT. Positions of register fields: the spec's D3 (log
12); bits of the format that are ignored: its D2 (log 13). -/
def Obligations.NotComplements : Prop :=
  (∀ w : Word, w &&& 0xF000#16 = 0x9000#16 → decode w =
    .not (Reg.ofBits (w.extractLsb' 9 3)) (Reg.ofBits (w.extractLsb' 6 3))) ∧
  ∀ (dr sr : Reg) (s : State), ∃ t, exec (.not dr sr) s = .next t ∧
    ResultWritten s t dr (0xFFFF#16 - s.reg sr)

/-! ### Data movement (42) -/

/-- R131: LD. `m` is the state the device-aware read leaves (D8, log 11; the poll's bookkeeping, log 6).
Positions of register fields: the spec's D3 (log 12). -/
def Obligations.LoadPcRelative : Prop :=
  (∀ w : Word, w &&& 0xF000#16 = 0x2000#16 → decode w =
    .ld (Reg.ofBits (w.extractLsb' 9 3)) (w.extractLsb' 0 9)) ∧
  ∀ (dr : Reg) (off9 : BitVec 9) (s : State), ∃ m t, ReadLeaves s (s.pc + sext off9) m ∧
    exec (.ld dr off9) s = .next t ∧ ResultWritten m t dr (m.memPeek (s.pc + sext off9))

/-- R132: LDI. The pointer is read first, the data second, both device-aware (D8, D22, log 11, 25; the poll's
bookkeeping, log 6). Positions of register fields: the spec's D3 (log 12). -/
def Obligations.LoadIndirect : Prop :=
  (∀ w : Word, w &&& 0xF000#16 = 0xA000#16 → decode w =
    .ldi (Reg.ofBits (w.extractLsb' 9 3)) (w.extractLsb' 0 9)) ∧
  ∀ (dr : Reg) (off9 : BitVec 9) (s : State), ∃ m₁ m₂ t,
    ReadLeaves s (s.pc + sext off9) m₁ ∧ ReadLeaves m₁ (m₁.memPeek (s.pc + sext off9)) m₂ ∧
    exec (.ldi dr off9) s = .next t ∧
    ResultWritten m₂ t dr (m₂.memPeek (m₁.memPeek (s.pc + sext off9)))

/-- R133: LDR, a device-aware read (D8, log 11; the poll's bookkeeping, log 6). Positions of register fields:
the spec's D3 (log 12). -/
def Obligations.LoadBasePlusOffset : Prop :=
  (∀ w : Word, w &&& 0xF000#16 = 0x6000#16 → decode w =
    .ldr (Reg.ofBits (w.extractLsb' 9 3)) (Reg.ofBits (w.extractLsb' 6 3)) (w.extractLsb' 0 6)) ∧
  ∀ (dr base : Reg) (off6 : BitVec 6) (s : State), ∃ m t, ReadLeaves s (s.reg base + sext off6) m ∧
    exec (.ldr dr base off6) s = .next t ∧ ResultWritten m t dr (m.memPeek (s.reg base + sext off6))

/-- R134: LEA, which sets the flags and reads no memory. Positions of register fields: the spec's D3 (log 12). -/
def Obligations.LoadEffectiveAddress : Prop :=
  (∀ w : Word, w &&& 0xF000#16 = 0xE000#16 → decode w =
    .lea (Reg.ofBits (w.extractLsb' 9 3)) (w.extractLsb' 0 9)) ∧
  ∀ (dr : Reg) (off9 : BitVec 9) (s : State), ∃ t, exec (.lea dr off9) s = .next t ∧
    ResultWritten s t dr (s.pc + sext off9)

/-- R135: ST. Positions of register fields: the spec's D3 (log 12). -/
def Obligations.StorePcRelative : Prop :=
  (∀ w : Word, w &&& 0xF000#16 = 0x3000#16 → decode w =
    .st (Reg.ofBits (w.extractLsb' 9 3)) (w.extractLsb' 0 9)) ∧
  ∀ (sr : Reg) (off9 : BitVec 9) (s : State), ∃ t, exec (.st sr off9) s = .next t ∧
    WordStored s t (s.pc + sext off9) (s.reg sr)

/-- R136: STI. The pointer is read, device-aware, before the store; `m` is the state that read leaves (D8, D22,
log 11, 25; the poll's bookkeeping, log 6). Positions of register fields: the spec's D3 (log 12). -/
def Obligations.StoreIndirect : Prop :=
  (∀ w : Word, w &&& 0xF000#16 = 0xB000#16 → decode w =
    .sti (Reg.ofBits (w.extractLsb' 9 3)) (w.extractLsb' 0 9)) ∧
  ∀ (sr : Reg) (off9 : BitVec 9) (s : State), ∃ m t, ReadLeaves s (s.pc + sext off9) m ∧
    exec (.sti sr off9) s = .next t ∧ WordStored m t (m.memPeek (s.pc + sext off9)) (s.reg sr)

/-- R137: STR. Positions of register fields: the spec's D3 (log 12). -/
def Obligations.StoreBasePlusOffset : Prop :=
  (∀ w : Word, w &&& 0xF000#16 = 0x7000#16 → decode w =
    .str (Reg.ofBits (w.extractLsb' 9 3)) (Reg.ofBits (w.extractLsb' 6 3)) (w.extractLsb' 0 6)) ∧
  ∀ (sr base : Reg) (off6 : BitVec 6) (s : State), ∃ t, exec (.str sr base off6) s = .next t ∧
    WordStored s t (s.reg base + sext off6) (s.reg sr)

/-! ### Control (43) -/

/-- R151, R152: BR is taken when a condition bit of `ir[11:9]` meets a set flag; the outcome for every mask
and every value `cond` can have, the column 000 never taken. Order of n, z, p: the spec's D4 (log 12). -/
def Obligations.BranchOnFlags : Prop :=
  (∀ w : Word, w &&& 0xF000#16 = 0x0000#16 → decode w = .br (w.extractLsb' 9 3) (w.extractLsb' 0 9)) ∧
  ∀ (nzp : BitVec 3) (off9 : BitVec 9) (s : State), ∃ t, exec (.br nzp off9) s = .next t ∧
    (nzp &&& s.cond ≠ 0b000#3 → Jumped s t [] (s.pc + sext off9)) ∧
    (nzp &&& s.cond = 0b000#3 → Jumped s t [] s.pc) ∧
    (s.cond = 0b000#3 → t.pc = s.pc) ∧
    (s.cond = 0b100#3 → t.pc = if nzp.getLsbD 2 then s.pc + sext off9 else s.pc) ∧
    (s.cond = 0b010#3 → t.pc = if nzp.getLsbD 1 then s.pc + sext off9 else s.pc) ∧
    (s.cond = 0b001#3 → t.pc = if nzp.getLsbD 0 then s.pc + sext off9 else s.pc)

/-- R153: JMP; R154: RET is JMP with BaseR = 7, word 0xC1C0. Positions of register fields: the spec's D3 (log
12); bits of the format that are ignored: its D2 (log 13). -/
def Obligations.JumpThroughRegister : Prop :=
  (∀ w : Word, w &&& 0xF000#16 = 0xC000#16 → decode w = .jmp (Reg.ofBits (w.extractLsb' 6 3))) ∧
  decode 0xC1C0#16 = .jmp .r7 ∧
  ∀ (base : Reg) (s : State), ∃ t, exec (.jmp base) s = .next t ∧ Jumped s t [] (s.reg base)

/-- R155: JSR links in R7 and jumps relative to the incremented PC. -/
def Obligations.JumpToSubroutine : Prop :=
  (∀ w : Word, w &&& 0xF800#16 = 0x4800#16 → decode w = .jsr (w.extractLsb' 0 11)) ∧
  ∀ (off11 : BitVec 11) (s : State), ∃ t, exec (.jsr off11) s = .next t ∧
    t.reg .r7 = s.pc ∧ Jumped s t [.r7] (s.pc + sext off11)

/-- R156: JSRR links in R7 before it reads BaseR, so JSRR R7 falls through (the spec's D13, log 14).
Positions of register fields: the spec's D3 (log
12); bits of the format that are ignored: its D2 (log 13). -/
def Obligations.JumpToSubroutineRegister : Prop :=
  (∀ w : Word, w &&& 0xF800#16 = 0x4000#16 → decode w = .jsrr (Reg.ofBits (w.extractLsb' 6 3))) ∧
  ∀ (base : Reg) (s : State), ∃ t, exec (.jsrr base) s = .next t ∧
    t.reg .r7 = s.pc ∧ Jumped s t [.r7] (if base = .r7 then s.pc else s.reg base)

/-- R158: the reserved opcode has no effect beyond fetch and increment. -/
def Obligations.ReservedDoesNothing : Prop :=
  (∀ w : Word, w &&& 0xF000#16 = 0xD000#16 → decode w = .reserved) ∧
  ∀ s : State, exec .reserved s = .next s

/-! ### TRAP (44) -/

/-- R168: GETC. With a character left it completes; with none it never does (the spec's D17), which the model
answers with a fault of its own (log 7). The words are R165's, `ir[11:8]` ignored by the spec's D2 (log 13). That
the service leaves R7, `pc`, `psw` and memory alone is the spec's D12 (R166; log 15). A character as an 8-bit code,
zero-extended, is its D18 (log 28). -/
def Obligations.GetcReadsCharacter : Prop :=
  (∀ w : Word, w &&& 0xF0FF#16 = 0xF020#16 → decode w = .trapGetc) ∧
  (∀ (s : State) (c : Byte) (rest : List Byte), s.input = c :: rest →
    exec .trapGetc s = .next { s with regs := { s.regs with r0 := c.setWidth 16 }, input := rest }) ∧
  ∀ s : State, s.input = [] → exec .trapGetc s = .fault (.waitingForInput s.output)

/-- R169: OUT. That the host accepts the code, so that the step completes, is the spec's D28 (log 10); the words are
R165's, `ir[11:8]` ignored by the spec's D2 (R100, log 13). That the service leaves R7, `pc`, `psw` and memory alone
is the spec's D12 (R166; log 15). -/
def Obligations.OutWritesLowByte : Prop :=
  (∀ w : Word, w &&& 0xF0FF#16 = 0xF021#16 → decode w = .trapOut) ∧
  ∀ s : State, exec .trapOut s = .next { s with output := s.output ++ [s.regs.r0.extractLsb' 0 8] }

/-- R170, R171: PUTS writes the low bytes of the `n` words from the address in R0 on, where the first zero word
stands `n` words on, or `n` is 65,536 where no word of memory is zero. Nothing else changes. The plain reads, the
low bytes and the bound are the spec's D9, D10, D11 (log 11, 18). That the host accepts every code, so that the step
completes, is its D28 (log 10; R172 says the step blocks until then). The words are R165's, `ir[11:8]` ignored by D2
(log 13). That the service leaves R7, `pc`, `psw` and memory alone is the spec's D12 (R166; log 15). -/
def Obligations.PutsWritesUpToZeroWord : Prop :=
  (∀ w : Word, w &&& 0xF0FF#16 = 0xF022#16 → decode w = .trapPuts) ∧
  ∀ s : State, ∃ n ≤ 65536,
    (∀ k < n, s.memPeek (s.reg .r0 + BitVec.ofNat 16 k) ≠ 0x0000#16) ∧
    (n < 65536 → s.memPeek (s.reg .r0 + BitVec.ofNat 16 n) = 0x0000#16) ∧
    exec .trapPuts s = .next { s with
      output := s.output ++ (List.range n).map fun k =>
        (s.memPeek (s.reg .r0 + BitVec.ofNat 16 k)).extractLsb' 0 8 }

/-- R173: IN writes the prompt, reads a character into R0 and echoes it; with no character left it never completes
(the spec's D17; log 7), and the prompt has been written (log 9, 26). That the host accepts the prompt and the echo
is the spec's D28 (log 10). The words are R165's, `ir[11:8]` ignored by D2 (log 13). That the service leaves R7,
`pc`, `psw` and memory alone is the spec's D12 (R166; log 15). A character as an 8-bit code, zero-extended, is its
D18 (log 28). -/
def Obligations.InPromptsReadsEchoes : Prop :=
  (∀ w : Word, w &&& 0xF0FF#16 = 0xF023#16 → decode w = .trapIn) ∧
  (∀ (s : State) (c : Byte) (rest : List Byte), s.input = c :: rest →
    exec .trapIn s = .next { s with
      regs := { s.regs with r0 := c.setWidth 16 }, input := rest,
      output := s.output ++ Config.inPrompt ++ [c] }) ∧
  ∀ s : State, s.input = [] → exec .trapIn s = .fault (.waitingForInput (s.output ++ Config.inPrompt))

/-- R170, R174: PUTSP writes the `n` bytes of the packed string at the address in R0, where its first zero byte
stands `n` bytes on, or `n` is 131,072 where no byte of memory is zero. Nothing else changes. The plain reads and
the bound are the spec's D9, D11 (log 11, 18). That the host accepts every code, so that the step completes, is its
D28 (log 10). The words are R165's, `ir[11:8]` ignored by D2 (log 13). That the service leaves R7, `pc`, `psw` and
memory alone is the spec's D12 (R166; log 15). -/
def Obligations.PutspWritesUpToZeroByte : Prop :=
  (∀ w : Word, w &&& 0xF0FF#16 = 0xF024#16 → decode w = .trapPutsp) ∧
  ∀ s : State, ∃ n ≤ 131072,
    (∀ k < n, packedByte s (s.reg .r0) k ≠ 0x00#8) ∧
    (n < 131072 → packedByte s (s.reg .r0) n = 0x00#8) ∧
    exec .trapPutsp s = .next { s with
      output := s.output ++ (List.range n).map (packedByte s (s.reg .r0)) }

/-- R176: HALT, whatever HALT_NOTICE is (the spec's D16; log 9). That the host accepts the notice, so that the step
completes, is its D28 (log 10). The words are R165's, `ir[11:8]` ignored by D2 (log 13). -/
def Obligations.HaltEndsRun : Prop :=
  (∀ w : Word, w &&& 0xF0FF#16 = 0xF025#16 → decode w = .trapHalt) ∧
  ∀ s : State, exec .trapHalt s = .next { s with
    output := s.output ++ Config.haltNotice, running := false, reason := .normalHalt }

/-- R177: an undefined selector does nothing; and, the model's own form of the row (log 21), the general TRAP
row on a defined selector is that selector's service (R165). `ir[11:8]` is ignored by the spec's D2 (log 13). -/
def Obligations.TrapDispatchesOnSelector : Prop :=
  (∀ w : Word, w &&& 0xF000#16 = 0xF000#16 → w.extractLsb' 0 8 ∉ definedSelectors →
    decode w = .trap (w.extractLsb' 0 8)) ∧
  ∀ s : State,
    exec (.trap 0x20#8) s = exec .trapGetc s ∧ exec (.trap 0x21#8) s = exec .trapOut s ∧
    exec (.trap 0x22#8) s = exec .trapPuts s ∧ exec (.trap 0x23#8) s = exec .trapIn s ∧
    exec (.trap 0x24#8) s = exec .trapPutsp s ∧ exec (.trap 0x25#8) s = exec .trapHalt s ∧
    ∀ v, v ∉ definedSelectors → exec (.trap v) s = .next s

/-! ### RTI and the privilege violation (45, 60) -/

/-- R191: RTI in Supervisor mode pops PC and PSW through device-aware reads and loads R6 from `usp` (the spec's D8,
D14; log 11, 16); `ir[11:0]` is ignored (R190; D2, log 13). That the popped PSW leaves `cond` alone is the spec's D7
(R33; log 23), the order of the reads its D22 (log 25), the poll's bookkeeping the model's (log 6). -/
def Obligations.RtiReturnsInSupervisorMode : Prop :=
  (∀ w : Word, w &&& 0xF000#16 = 0x8000#16 → decode w = .rti) ∧
  ∀ s : State, s.psw.getLsbD 15 = false → ∃ m₁ m₂ t,
    ReadLeaves s (s.reg .r6) m₁ ∧ ReadLeaves m₁ (s.reg .r6 + 1#16) m₂ ∧ exec .rti s = .next t ∧
    t.pc = m₁.memPeek (s.reg .r6) ∧ t.psw = m₂.memPeek (s.reg .r6 + 1#16) ∧ t.reg .r6 = s.usp ∧
    SameRegsBut [.r6] s t ∧ t.cond = s.cond ∧ t.ssp = s.ssp ∧ t.usp = s.usp ∧ SameRun s t ∧
    SameMemoryBut [] m₂ t ∧ SameHost m₂ t

/-- R192, R203: RTI in User mode is the privilege violation: what it saves, where, and how the core halts (the
spec's D15; log 17). That the pushed PSW holds no flags and `cond` is left alone is its D7 (R33; log 23). -/
def Obligations.RtiViolatesPrivilegeInUserMode : Prop :=
  ∀ s : State, s.psw.getLsbD 15 = true → ∃ t, exec .rti s = .next t ∧
    t.psw.getLsbD 15 = false ∧ (∀ k < 15, t.psw.getLsbD k = s.psw.getLsbD k) ∧
    t.reg .r6 = s.ssp - 2#16 ∧ t.memPeek (s.ssp - 1#16) = t.psw ∧ t.memPeek (s.ssp - 2#16) = s.pc ∧
    t.pc = 0x0100#16 ∧ t.running = false ∧ t.reason = .privilegeViolation ∧
    t.cond = s.cond ∧ t.ssp = s.ssp ∧ t.usp = s.usp ∧ SameRegsBut [.r6] s t ∧
    SameMemoryBut [s.ssp - 1#16, s.ssp - 2#16] s t ∧ SameHost s t

/-! ### Encoding (30) -/

/-- Decoding an encoded well-formed instruction gives it back, with every operand at every value. What `encode`
puts in ignored bits is the model's choice (log 13), and so is well-formedness (log 21). -/
def Obligations.DecodeOfEncode : Prop := ∀ i : Instr, i.wf = true → decode (encode i) = i

/-- R98, R99: every word is well formed as decoded (log 21) and stands in its row of the opcode table. -/
def Obligations.EveryWordStandsInItsRow : Prop :=
  ∀ w : Word, (decode w).wf = true ∧ w &&& (decode w).rowMask = (decode w).rowMatch

/-- R100, R103: two words are the same instruction exactly when they differ in ignored bits only (the spec's D2,
log 13). -/
def Obligations.SameInstructionUpToIgnoredBits : Prop :=
  ∀ v w : Word, decode v = decode w ↔ v ||| (decode v).ignoredBits = w ||| (decode v).ignoredBits

/-- A few words written out bit by bit decode to the instructions they stand for (R81: the spec's D3, D4, log 12;
ignored bits set in some: its D2, log 13). -/
def Obligations.WrittenOutWordsDecode : Prop :=
  decode 0b0001001010111101#16 = .addImm .r1 .r2 0b11101#5 ∧
  decode 0b1110000000000010#16 = .lea .r0 2#9 ∧
  decode 0b0000010000000100#16 = .br 0b010#3 4#9 ∧
  decode 0b0110100101111111#16 = .ldr .r4 .r5 0b111111#6 ∧
  decode 0b0011011111111110#16 = .st .r3 0b111111110#9 ∧
  decode 0b0100000011000000#16 = .jsrr .r3 ∧
  decode 0b1111111100100001#16 = .trapOut ∧
  decode 0b1000111111111111#16 = .rti

/-- R22: a 3-bit field `i` names R`i`; every register is read and written alike, none is hard-wired; the one
set serves both modes, and `ssp` and `usp` are storage of their own. -/
def Obligations.RegisterFieldsNameRegisters : Prop :=
  ∀ (s : State) (v : Word),
    s.reg (Reg.ofBits 0#3) = s.regs.r0 ∧ s.reg (Reg.ofBits 1#3) = s.regs.r1 ∧
    s.reg (Reg.ofBits 2#3) = s.regs.r2 ∧ s.reg (Reg.ofBits 3#3) = s.regs.r3 ∧
    s.reg (Reg.ofBits 4#3) = s.regs.r4 ∧ s.reg (Reg.ofBits 5#3) = s.regs.r5 ∧
    s.reg (Reg.ofBits 6#3) = s.regs.r6 ∧ s.reg (Reg.ofBits 7#3) = s.regs.r7 ∧
    (∀ b c : BitVec 3, (s.setReg (Reg.ofBits b) v).reg (Reg.ofBits c) =
      if c = b then v else s.reg (Reg.ofBits c)) ∧
    (∀ (r : Reg) (p : Word), (s.setPsw p).reg r = s.reg r) ∧
    ∀ r : Reg, (s.setReg r v).ssp = s.ssp ∧ (s.setReg r v).usp = s.usp

/-- R10: what the sign extension of an `n`-bit field is, that masking it back returns the field, and what
zero extension is. -/
def Obligations.SignExtension : Prop :=
  (∀ n, 1 ≤ n → n ≤ 16 → ∀ v : BitVec n,
    (sext v).toNat = if v.getLsbD (n - 1) then v.toNat + (0x10000 - 2 ^ n) else v.toNat) ∧
  (∀ k, 1 ≤ k → k ≤ 16 → ∀ n : Word, (sext (n.extractLsb' 0 k)).extractLsb' 0 k = n.extractLsb' 0 k) ∧
  ∀ n ≤ 16, ∀ v : BitVec n, (zext v).toNat = v.toNat

/-- R29: `setcc`. Which bit is which flag is the spec's D4 (log 12). -/
def Obligations.SetccFollowsSign : Prop :=
  ∀ (s : State) (v : Word), s.setcc v = { s with
    cond := if v = 0x0000#16 then 0b010#3 else if v.getLsbD 15 then 0b100#3 else 0b001#3 }

/-! ### Memory and the keyboard (20) -/

/-- R54, R70: `MemRead` returns the stored word and changes nothing, except that a read of 0xFE00 polls. How the
poll's answer is drawn is the model's form of the host (D17, D23; log 5, 6). A character as an 8-bit code,
zero-extended, is the spec's D18 (log 28). -/
def Obligations.MemReadPollsOnlyKbsr : Prop :=
  ∀ (s : State) (a : Word), ReadLeaves s a (s.memRead a).2 ∧ (s.memRead a).1 = (s.memRead a).2.memPeek a

/-- R55: `MemWrite` is a plain store at every address. -/
def Obligations.MemWriteIsPlainStore : Prop :=
  ∀ (s : State) (a v : Word), WordStored s (s.memWrite a v) a v

/-- R221, R222, D23: the poll's answer is the host's, true only where a character is left, and that
character is then the next of the stream. The stream and the answers as lists are the model's (log 5, 6). -/
def Obligations.PollAnswersAreTheHosts : Prop :=
  ∀ s : State,
    (s.input = [] → s.consolePoll = none) ∧
    ∀ c rest, s.input = c :: rest →
      (s.consolePoll = some c ∨ s.consolePoll = none) ∧
      (∀ more, s.pollAnswers = true :: more → s.consolePoll = some c) ∧
      (∀ more, s.pollAnswers = false :: more → s.consolePoll = none)

/-- Memories in canonical form that read alike at every address are the same data (log 1). -/
def Obligations.CanonicalMemoryIsExtensional : Prop :=
  ∀ m n : Memory, m.wf → n.wf → (∀ a < 65536, m.load a = n.load a) → m = n

/-- R57, R49: an instruction stores only at its store addresses, and a poll writes 0xFE00 and 0xFE02 (the spec's D8,
D9; log 11). That TRAP writes no memory is its D12 (log 15). -/
def Obligations.MemoryWritersAreTheListed : Prop :=
  ∀ (i : Instr) (s t : State), exec i s = .next t → ∀ a, a ∉ storeAddrs i s →
    (0xFE00#16 ∈ readAddrs i s → a ≠ 0xFE00#16 ∧ a ≠ 0xFE02#16) → t.memPeek a = s.memPeek a

/-! ### The step (40) -/

/-- R110, R24, R25: a running core fetches through `MemRead`, increments the PC modulo 2^16 and executes the
decoded instruction. That the fetch is a `MemRead` is the spec's D8 (log 11; the poll's bookkeeping, log 6). -/
def Obligations.StepRunsDecodedInstruction : Prop :=
  ∀ s : State, s.running = true → ∃ m, ReadLeaves s s.pc m ∧
    step s = exec (decode (m.memPeek s.pc)) { m with pc := s.pc + 1#16 }

/-- R115: a halted core has no step (the spec's D20), which the model answers with a fault of its own (log 8). -/
def Obligations.HaltedCoreHasNoStep : Prop := ∀ s : State, s.running = false → step s = .fault .halted

/-- R75: what ST, STI or STR stores at the address of the next instruction is what the next step executes, unless
that address is 0xFE00, where the fetch polls (D8, log 11). The other stores, the pushes of the violation, halt
the core. -/
def Obligations.StoreIsSeenByNextFetch : Prop :=
  ∀ (i : Instr) (sr : Reg) (s t : State), storedReg i = some sr → s.running = true → s.pc ≠ 0xFE00#16 →
    exec i s = .next t → s.pc ∈ storeAddrs i s →
    step t = exec (decode (s.reg sr)) { t with pc := s.pc + 1#16 }

/-- R16, R112, R117, R201: a step of a running core completes, unless it is a GETC or IN with no character left;
nothing is refused. The fault for a blocked read is the model's (D17; log 7, 26), and that output is always accepted
is the spec's D28 (log 10). That a PUTS or PUTSP scan with no terminator ends is its D11 (R170; log 18), and that
every word is an instruction, ignored bits and all, its D2 (log 13). -/
def Obligations.OnlyBlockedReadsDoNotComplete : Prop :=
  ∀ s : State, s.running = true →
    (∃ t, step s = .next t) ∨
    ∃ out, step s = .fault (.waitingForInput out) ∧ s.fetch.2.input = [] ∧
      (decode s.fetch.1 = .trapGetc ∨ decode s.fetch.1 = .trapIn)

/-! ### Whole-machine rules -/

/-- R28: exactly the seven instructions write `cond`, each from its destination register. That RTI does not write it
is the spec's D7 (R33; log 23). -/
def Obligations.OnlySevenInstructionsSetFlags : Prop :=
  ∀ (i : Instr) (s t : State), exec i s = .next t →
    match flagDest i with
    | some dr => FlagsFollow (t.reg dr) t.cond
    | none => t.cond = s.cond

/-- R30: once one flag is set, one flag stays set, whatever runs. That the flags hold one bit from the first such
instruction on is the spec's D5 (log 4), and that RTI does not write them its D7 (log 23). -/
def Obligations.OneFlagStaysSet : Prop :=
  ∀ s t : State, OneFlag s.cond → step s = .next t → OneFlag t.cond

/-- R23: the registers an instruction may write, the implicit ones included (TRAP does not link: D12, log 15). -/
def Obligations.RegisterWritersAreTheListed : Prop :=
  ∀ (i : Instr) (s t : State), exec i s = .next t → SameRegsBut (regsWritten i) s t

/-- R26: the writers of `pc` beyond the fetch increment. That TRAP is none is the spec's D12 (R166; log 15). -/
def Obligations.PcWritersAreTheListed : Prop :=
  ∀ (i : Instr) (s t : State), exec i s = .next t → writesPc i = false → t.pc = s.pc

/-- R31, R35: no instruction but RTI writes `psw`, and nothing writes `ssp` or `usp` (the spec's D14, D15; log 16,
17). That the flags are not kept in `psw` is its D7 (log 23), that TRAP does not change the mode its D12 (log 15).
-/
def Obligations.OnlyRtiChangesPrivilegeState : Prop :=
  ∀ (i : Instr) (s t : State), exec i s = .next t →
    t.ssp = s.ssp ∧ t.usp = s.usp ∧ (i ≠ .rti → t.psw = s.psw)

/-- R37: of a step that completes, the HALT service and RTI in User mode clear `running`, each with its
reason, and no other instruction does. -/
def Obligations.OnlyHaltAndViolationHalt : Prop :=
  ∀ s t : State, step s = .next t →
    (t.running = false ↔
      isHalt (decode s.fetch.1) = true ∨ (decode s.fetch.1 = .rti ∧ s.psw.getLsbD 15 = true)) ∧
    (isHalt (decode s.fetch.1) = true → t.reason = .normalHalt) ∧
    (decode s.fetch.1 = .rti → s.psw.getLsbD 15 = true → t.reason = .privilegeViolation)

/-- R216: every instruction but RTI behaves identically in both modes, for every `psw`; RTI performs its return in
Supervisor mode and raises the privilege violation in User mode. R216 speaks of the mode; that bits 14:0 of `psw`
have no function either, and that the flags are not kept in `psw`, is the spec's D7 (R32, R33; log 23), that TRAP
leaves `psw` alone its D12 (R166; log 15), and what the two paths of RTI do its D14, D15 (log 16, 17). -/
def Obligations.ModeMattersOnlyToRti : Prop :=
  (∀ (i : Instr) (s : State) (p : Word), i ≠ .rti → exec i (s.setPsw p) = withPsw (exec i s) p) ∧
  ∀ s : State, exec .rti s =
    .next (if s.psw.getLsbD 15 then s.raisePrivilegeViolation else s.returnFromException)

/-- R217: how a step changes the mode: into Supervisor only by the violation, which halts; into User only by
RTI in Supervisor mode. -/
def Obligations.ModeChangesOnlyByRti : Prop :=
  ∀ s t : State, step s = .next t →
    (s.psw.getLsbD 15 = true → t.psw.getLsbD 15 = false →
      decode s.fetch.1 = .rti ∧ t.running = false ∧ t.reason = .privilegeViolation ∧ t.pc = 0x0100#16) ∧
    (s.psw.getLsbD 15 = false → t.psw.getLsbD 15 = true → decode s.fetch.1 = .rti)

/-- R222, R223: a step only takes characters from the front of the input and adds codes to the end of the
output. Both streams as lists in the state are the model's (log 5, 10). -/
def Obligations.ConsoleStreamsMoveForward : Prop :=
  ∀ s t : State, step s = .next t → t.input <:+ s.input ∧ s.output <+: t.output

/-- The invariant of the core is kept by every step, from every state that has it: memory canonical (log 1), the
flags of R30, `reason` as R38 says. The flags' clause rests on the spec's D4, D5, D7 (log 12, 4, 23), the reason's
on its D26 (log 24). -/
def Obligations.StepKeepsInvariant : Prop := ∀ s t : State, s.Inv → step s = .next t → t.Inv

/-- The state right after reset has the invariant. -/
def Obligations.ResetHasInvariant : Prop := State.reset.Inv

/-! ### Reset and launch (10, 70) -/

/-- R42, R44, R46, R47, R48: what reset leaves, whatever ORIGIN, PSW_RESET_LOW and the host are; and R45:
User mode. `cond` at reset is the spec's D5 (log 4), PSW_RESET_LOW is open (D6). That `State.reset` takes 0x3000
and 0 for the two open parameters is the model's choice (log 2, 3), and nothing is said of it here. -/
def Obligations.ResetLeaves : Prop :=
  ∀ (origin : Word) (pswLow : BitVec 15) (input : List Byte) (pollAnswers : List Bool),
    let s := State.boot origin pswLow input pollAnswers
    (∀ r, s.reg r = 0x0000#16) ∧ s.pc = origin ∧ s.cond = 0b000#3 ∧ s.psw.getLsbD 15 = true ∧
    s.psw.extractLsb' 0 15 = pswLow ∧ s.ssp = 0x0000#16 ∧ s.usp = 0x0000#16 ∧ s.running = true ∧
    s.reason = .none ∧ ∀ a, s.memPeek a = 0x0000#16

/-- R240, R243, R47: an image that fits is stored from its origin up with zeros elsewhere and every register
as reset leaves it; one that does not fit is refused (the spec's D21; log 19). -/
def Obligations.LaunchLoadsImage : Prop :=
  ∀ (origin : Word) (image : List Word) (pswLow : BitVec 15) (input : List Byte) (pollAnswers : List Bool),
    (origin.toNat + image.length ≤ 0x10000 →
      ∃ m : Memory, launch origin image pswLow input pollAnswers =
          .next { State.boot origin pswLow input pollAnswers with mem := m } ∧
        (∀ k < image.length, m.load (origin.toNat + k) = image.getD k 0) ∧
        ∀ a, (a < origin.toNat ∨ origin.toNat + image.length ≤ a) → m.load a = 0x0000#16) ∧
    (0x10000 < origin.toNat + image.length →
      launch origin image pswLow input pollAnswers = .refused .imageTooLong)

/-- R242, R245: an image file is big-endian words, the first one the origin; an odd byte count and an empty
file are refused (the spec's D21; log 19). -/
def Obligations.LaunchFileIsBigEndian : Prop :=
  (∀ (words : List (Byte × Byte)) (origin : Byte × Byte) (pswLow : BitVec 15) (input : List Byte)
      (pollAnswers : List Bool),
    launchFile ((origin :: words).flatMap fun w => [w.1, w.2]) pswLow input pollAnswers =
      launch (BitVec.ofNat 16 (origin.1.toNat * 256 + origin.2.toNat))
        (words.map fun w => BitVec.ofNat 16 (w.1.toNat * 256 + w.2.toNat)) pswLow input pollAnswers) ∧
  (∀ (bytes : List Byte) (pswLow : BitVec 15) (input : List Byte) (pollAnswers : List Bool),
    bytes.length % 2 = 1 → launchFile bytes pswLow input pollAnswers = .refused .imageFileOdd) ∧
  ∀ (pswLow : BitVec 15) (input : List Byte) (pollAnswers : List Bool),
    launchFile [] pswLow input pollAnswers = .refused .imageFileEmpty

/-- Every launched state has the invariant (log 1, 4, 19). -/
def Obligations.LaunchedHasInvariant : Prop := ∀ s : State, Launched s → s.Inv

/-! ### Runs of any launched program -/

/-- R193, R35: every step keeps `UserRun`, every launched state has it for its own `psw`, and so, in a run of any
program from launch, `ssp` and `usp` stay 0x0000, and while the core runs it is in User mode with the `psw` it was
launched with: RTI's Supervisor path is never executed (it rests on the spec's D7, D12, D14, D15; log 23, 15, 16,
17). -/
def Obligations.LaunchedRunsStayInUserMode : Prop :=
  (∀ (p : Word) (s t : State), UserRun p s → step s = .next t → UserRun p t) ∧
  (∀ s : State, Launched s → UserRun s.psw s) ∧
  ∀ (s t : State) (k : Nat), Launched s → Host.Core.run Sys2Proof.core k s = .next t →
    t.ssp = 0x0000#16 ∧ t.usp = 0x0000#16 ∧
    (t.running = true → t.psw = s.psw ∧ t.psw.getLsbD 15 = true)

/-- R226, R227, R249: a step from `UserRun` that halts the core leaves what `HaltReport` says, the saved PC being
the address after the instruction; and so does the last step of a run of any program from launch that has halted. It
rests on the spec's D7, D12, D14, D15 (log 23, 15, 16, 17). -/
def Obligations.HaltedRunsShowTheirReason : Prop :=
  (∀ (p : Word) (s t : State), UserRun p s → step s = .next t → t.running = false →
    HaltReport p (s.pc + 1#16) t) ∧
  ∀ (s t : State) (k : Nat), Launched s → Host.Core.run Sys2Proof.core k s = .next t → t.running = false →
    ∃ (j : Nat) (u : State), k = j + 1 ∧ Host.Core.run Sys2Proof.core j s = .next u ∧ step u = .next t ∧
      HaltReport s.psw (u.pc + 1#16) t

/-- R16, R99, R201: no run from any state is ever refused, and a run stops only because the core has halted or
because GETC or IN waits for a character the host never supplies. The two faults are the model's (log 7, 8), and
that output is always accepted is the spec's D28 (log 10). That a PUTS or PUTSP scan with no terminator ends is its
D11 (R170; log 18), that every word is an instruction, ignored bits and all, its D2 (log 13), that a blocked read is
stuck its D17; the output the fault carries is the model's (log 26). -/
def Obligations.RunsAreNeverRefused : Prop :=
  ∀ (s : State) (k : Nat),
    (∀ r : Refusal, Host.Core.run Sys2Proof.core k s ≠ .refused r) ∧
    ∀ f : Fault, Host.Core.run Sys2Proof.core k s = .fault f →
      ∃ (j : Nat) (t : State), j < k ∧ Host.Core.run Sys2Proof.core j s = .next t ∧
        ((f = .halted ∧ t.running = false) ∨
          ∃ out, f = .waitingForInput out ∧ t.running = true ∧ t.fetch.2.input = [] ∧
            (decode t.fetch.1 = .trapGetc ∨ decode t.fetch.1 = .trapIn))
end

