-- ==== Sys2Proof/Laws/Bits.lean ====
section
/-! SUPPORT. Register fields, and the fields of an encoded word read back, one lemma per field of each
shared format (R81, R83 to R92). -/

namespace Sys2Proof

@[simp] theorem Reg.ofBits_toBits (r : Reg) : Reg.ofBits r.toBits = r := by cases r <;> rfl

@[simp] theorem Reg.toBits_ofBits (b : BitVec 3) : (Reg.ofBits b).toBits = b := by revert b; decide

section EncodeOp

variable (op : BitVec 4) (dr sr1 : Reg) (low : BitVec 6)

@[simp] theorem field_opcode_encodeOp : field (encodeOp op dr sr1 low) 12 4 = op := by
  ext i hi
  simp only [field, encodeOp, BitVec.getElem_extractLsb', BitVec.getLsbD_append]
  interval_cases i <;> simp

@[simp] theorem field_high_encodeOp : field (encodeOp op dr sr1 low) 9 3 = dr.toBits := by
  ext i hi
  simp only [field, encodeOp, BitVec.getElem_extractLsb', BitVec.getLsbD_append]
  interval_cases i <;> simp

@[simp] theorem field_mid_encodeOp : field (encodeOp op dr sr1 low) 6 3 = sr1.toBits := by
  ext i hi
  simp only [field, encodeOp, BitVec.getElem_extractLsb', BitVec.getLsbD_append]
  interval_cases i <;> simp

/-- The low bits of an OP or BASE word are its last field's. -/
theorem getLsbD_encodeOp {k : Nat} (h : k < 6) : (encodeOp op dr sr1 low).getLsbD k = low.getLsbD k := by
  simp only [encodeOp, BitVec.getLsbD_append]
  simp [h]

/-- The opcode is all the mask 0xF000 leaves. -/
theorem encodeOp_opcode_mask : encodeOp op dr sr1 low &&& 0xF000#16 = op.setWidth 16 <<< 12 := by
  ext i hi
  simp only [encodeOp, BitVec.getElem_and, BitVec.getElem_append]
  interval_cases i <;> simp

/-- The opcode and the mode bit are all the mask 0xF020 leaves. -/
theorem encodeOp_mode_mask (mode : BitVec 1) (rest : BitVec 5) :
    encodeOp op dr sr1 (mode ++ rest) &&& 0xF020#16 =
      op.setWidth 16 <<< 12 ||| mode.setWidth 16 <<< 5 := by
  ext i hi
  simp only [encodeOp, BitVec.getElem_and, BitVec.getElem_append]
  interval_cases i <;> simp

/-- The opcode and the mode bit of JSRR are all the mask 0xF800 leaves. -/
theorem encodeOp_jsrr_mask : encodeOp op .r0 sr1 low &&& 0xF800#16 = op.setWidth 16 <<< 12 := by
  ext i hi
  simp only [encodeOp, Reg.toBits, BitVec.getElem_and, BitVec.getElem_append]
  interval_cases i <;> simp

end EncodeOp

section EncodePcRel

variable (op : BitVec 4) (r : Reg) (off9 : BitVec 9)

@[simp] theorem field_opcode_encodePcRel : field (encodePcRel op r off9) 12 4 = op := by
  ext i hi
  simp only [field, encodePcRel, BitVec.getElem_extractLsb', BitVec.getLsbD_append]
  interval_cases i <;> simp

@[simp] theorem field_high_encodePcRel : field (encodePcRel op r off9) 9 3 = r.toBits := by
  ext i hi
  simp only [field, encodePcRel, BitVec.getElem_extractLsb', BitVec.getLsbD_append]
  interval_cases i <;> simp

@[simp] theorem field_off_encodePcRel : field (encodePcRel op r off9) 0 9 = off9 := by
  ext i hi
  simp only [field, encodePcRel, BitVec.getElem_extractLsb', BitVec.getLsbD_append]
  interval_cases i <;> simp

/-- The opcode is all the mask 0xF000 leaves. -/
theorem encodePcRel_opcode_mask : encodePcRel op r off9 &&& 0xF000#16 = op.setWidth 16 <<< 12 := by
  ext i hi
  simp only [encodePcRel, BitVec.getElem_and, BitVec.getElem_append]
  interval_cases i <;> simp

end EncodePcRel

@[simp] theorem field_vect_encodeTrap (v : BitVec 8) : field (encodeTrap v) 0 8 = v := by
  ext i hi
  simp only [field, encodeTrap, BitVec.getElem_extractLsb', BitVec.getLsbD_append]
  interval_cases i <;> simp

@[simp] theorem field_opcode_encodeTrap (v : BitVec 8) : field (encodeTrap v) 12 4 = 0b1111#4 := by
  ext i hi
  simp only [field, encodeTrap, BitVec.getElem_extractLsb', BitVec.getLsbD_append]
  interval_cases i <;> simp

end Sys2Proof
end

