-- ==== Sys2Proof/Laws/State.lean ====
section
/-! SUPPORT. One lemma for each field of State and each named update, true by rfl, so that no later proof
unfolds a record update; and the same for the two readers `reg` and `memPeek`. -/

namespace Sys2Proof.Machine.State

@[simp] theorem setReg_regs (s : State) (r : Reg) (v : Word) : (s.setReg r v).regs = s.regs.set r v := rfl
@[simp] theorem setReg_pc (s : State) (r : Reg) (v : Word) : (s.setReg r v).pc = s.pc := rfl
@[simp] theorem setReg_cond (s : State) (r : Reg) (v : Word) : (s.setReg r v).cond = s.cond := rfl
@[simp] theorem setReg_psw (s : State) (r : Reg) (v : Word) : (s.setReg r v).psw = s.psw := rfl
@[simp] theorem setReg_ssp (s : State) (r : Reg) (v : Word) : (s.setReg r v).ssp = s.ssp := rfl
@[simp] theorem setReg_usp (s : State) (r : Reg) (v : Word) : (s.setReg r v).usp = s.usp := rfl
@[simp] theorem setReg_running (s : State) (r : Reg) (v : Word) : (s.setReg r v).running = s.running := rfl
@[simp] theorem setReg_reason (s : State) (r : Reg) (v : Word) : (s.setReg r v).reason = s.reason := rfl
@[simp] theorem setReg_mem (s : State) (r : Reg) (v : Word) : (s.setReg r v).mem = s.mem := rfl
@[simp] theorem setReg_input (s : State) (r : Reg) (v : Word) : (s.setReg r v).input = s.input := rfl
@[simp] theorem setReg_pollAnswers (s : State) (r : Reg) (v : Word) : (s.setReg r v).pollAnswers = s.pollAnswers := rfl
@[simp] theorem setReg_polls (s : State) (r : Reg) (v : Word) : (s.setReg r v).polls = s.polls := rfl
@[simp] theorem setReg_output (s : State) (r : Reg) (v : Word) : (s.setReg r v).output = s.output := rfl
@[simp] theorem setReg_memPeek (s : State) (r : Reg) (v : Word) (b : Word) : (s.setReg r v).memPeek b = s.memPeek b := rfl

@[simp] theorem setPc_regs (s : State) (v : Word) : (s.setPc v).regs = s.regs := rfl
@[simp] theorem setPc_pc (s : State) (v : Word) : (s.setPc v).pc = v := rfl
@[simp] theorem setPc_cond (s : State) (v : Word) : (s.setPc v).cond = s.cond := rfl
@[simp] theorem setPc_psw (s : State) (v : Word) : (s.setPc v).psw = s.psw := rfl
@[simp] theorem setPc_ssp (s : State) (v : Word) : (s.setPc v).ssp = s.ssp := rfl
@[simp] theorem setPc_usp (s : State) (v : Word) : (s.setPc v).usp = s.usp := rfl
@[simp] theorem setPc_running (s : State) (v : Word) : (s.setPc v).running = s.running := rfl
@[simp] theorem setPc_reason (s : State) (v : Word) : (s.setPc v).reason = s.reason := rfl
@[simp] theorem setPc_mem (s : State) (v : Word) : (s.setPc v).mem = s.mem := rfl
@[simp] theorem setPc_input (s : State) (v : Word) : (s.setPc v).input = s.input := rfl
@[simp] theorem setPc_pollAnswers (s : State) (v : Word) : (s.setPc v).pollAnswers = s.pollAnswers := rfl
@[simp] theorem setPc_polls (s : State) (v : Word) : (s.setPc v).polls = s.polls := rfl
@[simp] theorem setPc_output (s : State) (v : Word) : (s.setPc v).output = s.output := rfl
@[simp] theorem setPc_reg (s : State) (v : Word) (q : Reg) : (s.setPc v).reg q = s.reg q := rfl
@[simp] theorem setPc_memPeek (s : State) (v : Word) (b : Word) : (s.setPc v).memPeek b = s.memPeek b := rfl

@[simp] theorem setCond_regs (s : State) (c : BitVec 3) : (s.setCond c).regs = s.regs := rfl
@[simp] theorem setCond_pc (s : State) (c : BitVec 3) : (s.setCond c).pc = s.pc := rfl
@[simp] theorem setCond_cond (s : State) (c : BitVec 3) : (s.setCond c).cond = c := rfl
@[simp] theorem setCond_psw (s : State) (c : BitVec 3) : (s.setCond c).psw = s.psw := rfl
@[simp] theorem setCond_ssp (s : State) (c : BitVec 3) : (s.setCond c).ssp = s.ssp := rfl
@[simp] theorem setCond_usp (s : State) (c : BitVec 3) : (s.setCond c).usp = s.usp := rfl
@[simp] theorem setCond_running (s : State) (c : BitVec 3) : (s.setCond c).running = s.running := rfl
@[simp] theorem setCond_reason (s : State) (c : BitVec 3) : (s.setCond c).reason = s.reason := rfl
@[simp] theorem setCond_mem (s : State) (c : BitVec 3) : (s.setCond c).mem = s.mem := rfl
@[simp] theorem setCond_input (s : State) (c : BitVec 3) : (s.setCond c).input = s.input := rfl
@[simp] theorem setCond_pollAnswers (s : State) (c : BitVec 3) : (s.setCond c).pollAnswers = s.pollAnswers := rfl
@[simp] theorem setCond_polls (s : State) (c : BitVec 3) : (s.setCond c).polls = s.polls := rfl
@[simp] theorem setCond_output (s : State) (c : BitVec 3) : (s.setCond c).output = s.output := rfl
@[simp] theorem setCond_reg (s : State) (c : BitVec 3) (q : Reg) : (s.setCond c).reg q = s.reg q := rfl
@[simp] theorem setCond_memPeek (s : State) (c : BitVec 3) (b : Word) : (s.setCond c).memPeek b = s.memPeek b := rfl

@[simp] theorem setPsw_regs (s : State) (v : Word) : (s.setPsw v).regs = s.regs := rfl
@[simp] theorem setPsw_pc (s : State) (v : Word) : (s.setPsw v).pc = s.pc := rfl
@[simp] theorem setPsw_cond (s : State) (v : Word) : (s.setPsw v).cond = s.cond := rfl
@[simp] theorem setPsw_psw (s : State) (v : Word) : (s.setPsw v).psw = v := rfl
@[simp] theorem setPsw_ssp (s : State) (v : Word) : (s.setPsw v).ssp = s.ssp := rfl
@[simp] theorem setPsw_usp (s : State) (v : Word) : (s.setPsw v).usp = s.usp := rfl
@[simp] theorem setPsw_running (s : State) (v : Word) : (s.setPsw v).running = s.running := rfl
@[simp] theorem setPsw_reason (s : State) (v : Word) : (s.setPsw v).reason = s.reason := rfl
@[simp] theorem setPsw_mem (s : State) (v : Word) : (s.setPsw v).mem = s.mem := rfl
@[simp] theorem setPsw_input (s : State) (v : Word) : (s.setPsw v).input = s.input := rfl
@[simp] theorem setPsw_pollAnswers (s : State) (v : Word) : (s.setPsw v).pollAnswers = s.pollAnswers := rfl
@[simp] theorem setPsw_polls (s : State) (v : Word) : (s.setPsw v).polls = s.polls := rfl
@[simp] theorem setPsw_output (s : State) (v : Word) : (s.setPsw v).output = s.output := rfl
@[simp] theorem setPsw_reg (s : State) (v : Word) (q : Reg) : (s.setPsw v).reg q = s.reg q := rfl
@[simp] theorem setPsw_memPeek (s : State) (v : Word) (b : Word) : (s.setPsw v).memPeek b = s.memPeek b := rfl

@[simp] theorem memWrite_regs (s : State) (a v : Word) : (s.memWrite a v).regs = s.regs := rfl
@[simp] theorem memWrite_pc (s : State) (a v : Word) : (s.memWrite a v).pc = s.pc := rfl
@[simp] theorem memWrite_cond (s : State) (a v : Word) : (s.memWrite a v).cond = s.cond := rfl
@[simp] theorem memWrite_psw (s : State) (a v : Word) : (s.memWrite a v).psw = s.psw := rfl
@[simp] theorem memWrite_ssp (s : State) (a v : Word) : (s.memWrite a v).ssp = s.ssp := rfl
@[simp] theorem memWrite_usp (s : State) (a v : Word) : (s.memWrite a v).usp = s.usp := rfl
@[simp] theorem memWrite_running (s : State) (a v : Word) : (s.memWrite a v).running = s.running := rfl
@[simp] theorem memWrite_reason (s : State) (a v : Word) : (s.memWrite a v).reason = s.reason := rfl
@[simp] theorem memWrite_mem (s : State) (a v : Word) : (s.memWrite a v).mem = s.mem.store a.toNat v := rfl
@[simp] theorem memWrite_input (s : State) (a v : Word) : (s.memWrite a v).input = s.input := rfl
@[simp] theorem memWrite_pollAnswers (s : State) (a v : Word) : (s.memWrite a v).pollAnswers = s.pollAnswers := rfl
@[simp] theorem memWrite_polls (s : State) (a v : Word) : (s.memWrite a v).polls = s.polls := rfl
@[simp] theorem memWrite_output (s : State) (a v : Word) : (s.memWrite a v).output = s.output := rfl
@[simp] theorem memWrite_reg (s : State) (a v : Word) (q : Reg) : (s.memWrite a v).reg q = s.reg q := rfl

@[simp] theorem consoleWrite_regs (s : State) (bs : List Byte) : (s.consoleWrite bs).regs = s.regs := rfl
@[simp] theorem consoleWrite_pc (s : State) (bs : List Byte) : (s.consoleWrite bs).pc = s.pc := rfl
@[simp] theorem consoleWrite_cond (s : State) (bs : List Byte) : (s.consoleWrite bs).cond = s.cond := rfl
@[simp] theorem consoleWrite_psw (s : State) (bs : List Byte) : (s.consoleWrite bs).psw = s.psw := rfl
@[simp] theorem consoleWrite_ssp (s : State) (bs : List Byte) : (s.consoleWrite bs).ssp = s.ssp := rfl
@[simp] theorem consoleWrite_usp (s : State) (bs : List Byte) : (s.consoleWrite bs).usp = s.usp := rfl
@[simp] theorem consoleWrite_running (s : State) (bs : List Byte) : (s.consoleWrite bs).running = s.running := rfl
@[simp] theorem consoleWrite_reason (s : State) (bs : List Byte) : (s.consoleWrite bs).reason = s.reason := rfl
@[simp] theorem consoleWrite_mem (s : State) (bs : List Byte) : (s.consoleWrite bs).mem = s.mem := rfl
@[simp] theorem consoleWrite_input (s : State) (bs : List Byte) : (s.consoleWrite bs).input = s.input := rfl
@[simp] theorem consoleWrite_pollAnswers (s : State) (bs : List Byte) : (s.consoleWrite bs).pollAnswers = s.pollAnswers := rfl
@[simp] theorem consoleWrite_polls (s : State) (bs : List Byte) : (s.consoleWrite bs).polls = s.polls := rfl
@[simp] theorem consoleWrite_output (s : State) (bs : List Byte) : (s.consoleWrite bs).output = s.output ++ bs := rfl
@[simp] theorem consoleWrite_reg (s : State) (bs : List Byte) (q : Reg) : (s.consoleWrite bs).reg q = s.reg q := rfl
@[simp] theorem consoleWrite_memPeek (s : State) (bs : List Byte) (b : Word) : (s.consoleWrite bs).memPeek b = s.memPeek b := rfl

@[simp] theorem nextPoll_regs (s : State) : (s.nextPoll).regs = s.regs := rfl
@[simp] theorem nextPoll_pc (s : State) : (s.nextPoll).pc = s.pc := rfl
@[simp] theorem nextPoll_cond (s : State) : (s.nextPoll).cond = s.cond := rfl
@[simp] theorem nextPoll_psw (s : State) : (s.nextPoll).psw = s.psw := rfl
@[simp] theorem nextPoll_ssp (s : State) : (s.nextPoll).ssp = s.ssp := rfl
@[simp] theorem nextPoll_usp (s : State) : (s.nextPoll).usp = s.usp := rfl
@[simp] theorem nextPoll_running (s : State) : (s.nextPoll).running = s.running := rfl
@[simp] theorem nextPoll_reason (s : State) : (s.nextPoll).reason = s.reason := rfl
@[simp] theorem nextPoll_mem (s : State) : (s.nextPoll).mem = s.mem := rfl
@[simp] theorem nextPoll_input (s : State) : (s.nextPoll).input = s.input := rfl
@[simp] theorem nextPoll_pollAnswers (s : State) : (s.nextPoll).pollAnswers = s.pollAnswers.tail := rfl
@[simp] theorem nextPoll_polls (s : State) : (s.nextPoll).polls = s.polls + 1 := rfl
@[simp] theorem nextPoll_output (s : State) : (s.nextPoll).output = s.output := rfl
@[simp] theorem nextPoll_reg (s : State) (q : Reg) : (s.nextPoll).reg q = s.reg q := rfl
@[simp] theorem nextPoll_memPeek (s : State) (b : Word) : (s.nextPoll).memPeek b = s.memPeek b := rfl

@[simp] theorem dropInput_regs (s : State) : (s.dropInput).regs = s.regs := rfl
@[simp] theorem dropInput_pc (s : State) : (s.dropInput).pc = s.pc := rfl
@[simp] theorem dropInput_cond (s : State) : (s.dropInput).cond = s.cond := rfl
@[simp] theorem dropInput_psw (s : State) : (s.dropInput).psw = s.psw := rfl
@[simp] theorem dropInput_ssp (s : State) : (s.dropInput).ssp = s.ssp := rfl
@[simp] theorem dropInput_usp (s : State) : (s.dropInput).usp = s.usp := rfl
@[simp] theorem dropInput_running (s : State) : (s.dropInput).running = s.running := rfl
@[simp] theorem dropInput_reason (s : State) : (s.dropInput).reason = s.reason := rfl
@[simp] theorem dropInput_mem (s : State) : (s.dropInput).mem = s.mem := rfl
@[simp] theorem dropInput_input (s : State) : (s.dropInput).input = s.input.tail := rfl
@[simp] theorem dropInput_pollAnswers (s : State) : (s.dropInput).pollAnswers = s.pollAnswers := rfl
@[simp] theorem dropInput_polls (s : State) : (s.dropInput).polls = s.polls := rfl
@[simp] theorem dropInput_output (s : State) : (s.dropInput).output = s.output := rfl
@[simp] theorem dropInput_reg (s : State) (q : Reg) : (s.dropInput).reg q = s.reg q := rfl
@[simp] theorem dropInput_memPeek (s : State) (b : Word) : (s.dropInput).memPeek b = s.memPeek b := rfl

@[simp] theorem halt_regs (s : State) (r : Reason) : (s.halt r).regs = s.regs := rfl
@[simp] theorem halt_pc (s : State) (r : Reason) : (s.halt r).pc = s.pc := rfl
@[simp] theorem halt_cond (s : State) (r : Reason) : (s.halt r).cond = s.cond := rfl
@[simp] theorem halt_psw (s : State) (r : Reason) : (s.halt r).psw = s.psw := rfl
@[simp] theorem halt_ssp (s : State) (r : Reason) : (s.halt r).ssp = s.ssp := rfl
@[simp] theorem halt_usp (s : State) (r : Reason) : (s.halt r).usp = s.usp := rfl
@[simp] theorem halt_running (s : State) (r : Reason) : (s.halt r).running = false := rfl
@[simp] theorem halt_reason (s : State) (r : Reason) : (s.halt r).reason = r := rfl
@[simp] theorem halt_mem (s : State) (r : Reason) : (s.halt r).mem = s.mem := rfl
@[simp] theorem halt_input (s : State) (r : Reason) : (s.halt r).input = s.input := rfl
@[simp] theorem halt_pollAnswers (s : State) (r : Reason) : (s.halt r).pollAnswers = s.pollAnswers := rfl
@[simp] theorem halt_polls (s : State) (r : Reason) : (s.halt r).polls = s.polls := rfl
@[simp] theorem halt_output (s : State) (r : Reason) : (s.halt r).output = s.output := rfl
@[simp] theorem halt_reg (s : State) (r : Reason) (q : Reg) : (s.halt r).reg q = s.reg q := rfl
@[simp] theorem halt_memPeek (s : State) (r : Reason) (b : Word) : (s.halt r).memPeek b = s.memPeek b := rfl

/-- Writing a register and reading it back, or another one (R22: none is hard-wired). -/
theorem setReg_reg (s : State) (r q : Reg) (v : Word) :
    (s.setReg r v).reg q = if q = r then v else s.reg q := by
  cases r <;> cases q <;> rfl

@[simp] theorem setReg_reg_same (s : State) (r : Reg) (v : Word) : (s.setReg r v).reg r = v := by
  rw [setReg_reg, if_pos rfl]

theorem setReg_reg_ne (s : State) {r q : Reg} (v : Word) (h : q ≠ r) :
    (s.setReg r v).reg q = s.reg q := by
  rw [setReg_reg, if_neg h]

end Sys2Proof.Machine.State
end

