-- ==== Sys2Proof/Laws/Flags.lean ====
section
/-! SUPPORT. The flag computation (R29) and what it leaves of the state. -/

namespace Sys2Proof.Machine

theorem flagsOf_follow (v : Word) : FlagsFollow v (flagsOf v) where
  zero h := by simp [flagsOf, h]
  negative h := by
    have hv : v ≠ 0x0000#16 := by rintro rfl; simp at h
    simp [flagsOf, hv, h]
  positive h₁ h₂ := by rw [flagsOf, if_neg h₁, h₂]; rfl

theorem FlagsFollow.oneFlag {v : Word} {c : BitVec 3} (h : FlagsFollow v c) : OneFlag c := by
  by_cases hv : v = 0x0000#16
  · exact .inr (.inl (h.zero hv))
  · cases hn : v.getLsbD 15
    · exact .inr (.inr (h.positive hv hn))
    · exact .inl (h.negative hn)

namespace State

variable (s : State) (dr : Reg) (v : Word)

@[simp] theorem setcc_eq : s.setcc v = s.setCond (flagsOf v) := rfl
theorem writeDest_eq : s.writeDest dr v = (s.setReg dr v).setCond (flagsOf v) := rfl

/-- What the end of the seven flag-setting instructions does, whole (R28, R126). -/
theorem writeDest_result : ResultWritten s (s.writeDest dr v) dr v where
  result := by simp [writeDest_eq]
  flags := flagsOf_follow v
  regs r h := setReg_reg_ne s v (by simpa using h)
  pc := rfl
  privilege := ⟨rfl, rfl, rfl⟩
  run := ⟨rfl, rfl⟩
  memory _ _ := rfl
  host := ⟨rfl, rfl, rfl, rfl⟩

end State

end Sys2Proof.Machine
end

