-- ==== Sys2Proof/Laws/Memory.lean ====
section
/-! SUPPORT. The memory operations: a read after a write, and the canonical form, which every operation
keeps. -/

namespace Sys2Proof.Machine.Memory

theorem load_erase (m : Memory) (a b : Nat) :
    load (erase m a) b = if b = a then unlisted else load m b := by
  induction m with
  | nil => simp [erase, load]
  | cons c rest ih =>
    obtain ⟨k, w⟩ := c
    by_cases hk : k = a
    · subst hk
      rw [erase, if_pos rfl, ih, load]
      by_cases hb : b = k <;> simp [hb, eq_comm (a := k)]
    · rw [erase, if_neg hk, load, load, ih]
      by_cases hb : k = b
      · subst hb; simp [hk]
      · simp [hb]

theorem load_insert (m : Memory) (a b : Nat) (v : Word) (h : load m a = unlisted) (hv : ∀ c ∈ m, c.1 ≠ a) :
    load (insert m a v) b = if b = a then v else load m b := by
  induction m with
  | nil => by_cases hb : b = a <;> simp [insert, load, hb, eq_comm (a := a)]
  | cons c rest ih =>
    obtain ⟨k, w⟩ := c
    have hk : k ≠ a := hv (k, w) (by simp)
    rw [insert]
    split
    · rw [load]
      by_cases hb : b = a <;> simp [hb, eq_comm (a := a)]
    · rw [load, if_neg hk] at h
      rw [load, ih h fun c hc => hv c (by simp [hc]), load]
      by_cases hb : k = b
      · subst hb; simp [hk]
      · simp [hb]

theorem erase_key (m : Memory) (a : Nat) : ∀ c ∈ erase m a, c.1 ≠ a ∧ c ∈ m := by
  induction m with
  | nil => simp [erase]
  | cons d rest ih =>
    obtain ⟨k, w⟩ := d
    rw [erase]
    split
    · exact fun c hc => ⟨(ih c hc).1, by simp [(ih c hc).2]⟩
    · rename_i hk
      intro c hc
      rcases List.mem_cons.mp hc with rfl | hc
      · exact ⟨hk, by simp⟩
      · exact ⟨(ih c hc).1, by simp [(ih c hc).2]⟩

/-- Read after write, in every memory: the address written gives the word, every other address what it gave
(R55, R71). -/
theorem load_store (m : Memory) (a b : Nat) (v : Word) :
    load (store m a v) b = if b = a then v else load m b := by
  unfold store
  split
  · rename_i hv
    rw [load_erase, hv]
  · rw [load_insert _ _ _ _ (by rw [load_erase, if_pos rfl]) fun c hc => (erase_key m a c hc).1, load_erase]
    by_cases hb : b = a <;> simp [hb]

theorem mem_insert (m : Memory) (a : Nat) (v : Word) : ∀ c ∈ insert m a v, c = (a, v) ∨ c ∈ m := by
  induction m with
  | nil => simp [insert]
  | cons d rest ih =>
    obtain ⟨k, w⟩ := d
    rw [insert]
    split
    · exact fun c hc => (List.mem_cons.mp hc)
    · intro c hc
      rcases List.mem_cons.mp hc with rfl | hc
      · exact .inr (by simp)
      · exact (ih c hc).imp id (List.mem_cons_of_mem _)

theorem erase_rising {m : Memory} (a : Nat) (h : m.Pairwise fun x y => x.1 < y.1) :
    (erase m a).Pairwise fun x y => x.1 < y.1 := by
  induction m with
  | nil => simp [erase]
  | cons d rest ih =>
    obtain ⟨k, w⟩ := d
    have h' := List.pairwise_cons.mp h
    rw [erase]
    split
    · exact ih h'.2
    · exact List.pairwise_cons.mpr ⟨fun c hc => h'.1 c (erase_key rest a c hc).2, ih h'.2⟩

theorem insert_rising {m : Memory} (a : Nat) (v : Word) (h : m.Pairwise fun x y => x.1 < y.1)
    (ha : ∀ c ∈ m, c.1 ≠ a) : (insert m a v).Pairwise fun x y => x.1 < y.1 := by
  induction m with
  | nil => simp [insert]
  | cons d rest ih =>
    obtain ⟨k, w⟩ := d
    have h' := List.pairwise_cons.mp h
    have hk : k ≠ a := ha (k, w) (by simp)
    rw [insert]
    split
    · rename_i hlt
      refine List.pairwise_cons.mpr ⟨fun c hc => ?_, h⟩
      rcases List.mem_cons.mp hc with rfl | hc
      · exact hlt
      · exact Nat.lt_trans hlt (h'.1 c hc)
    · rename_i hlt
      refine List.pairwise_cons.mpr ⟨fun c hc => ?_, ih h'.2 fun c hc => ha c (by simp [hc])⟩
      rcases mem_insert rest a v c hc with rfl | hc
      · simp only; omega
      · exact h'.1 c hc

/-- A store inside the address space keeps the canonical form. -/
theorem store_wf {m : Memory} (h : wf m) {a : Nat} (ha : a < 65536) (v : Word) : wf (store m a v) := by
  obtain ⟨hp, hc⟩ := h
  unfold store
  split
  · exact ⟨erase_rising a hp, fun c hm => hc c (erase_key m a c hm).2⟩
  · rename_i hv
    refine ⟨insert_rising a v (erase_rising a hp) fun c hm => (erase_key m a c hm).1, fun c hm => ?_⟩
    rcases mem_insert _ a v c hm with rfl | hm
    · exact ⟨ha, hv⟩
    · exact hc c (erase_key m a c hm).2

/-- Memory with nothing listed is in canonical form. -/
theorem nil_wf : wf [] := by decide

end Sys2Proof.Machine.Memory

namespace Sys2Proof.Machine.State

/-- Read after write at word addresses (R55). -/
theorem memWrite_memPeek (s : State) (a b v : Word) :
    (s.memWrite a v).memPeek b = if b = a then v else s.memPeek b := by
  unfold memPeek
  rw [memWrite_mem, Memory.load_store]
  by_cases hb : b = a
  · simp [hb]
  · rw [if_neg hb, if_neg (by simpa [BitVec.toNat_inj] using hb)]

@[simp] theorem memWrite_memPeek_same (s : State) (a v : Word) : (s.memWrite a v).memPeek a = v := by
  rw [memWrite_memPeek, if_pos rfl]

theorem memWrite_memPeek_ne (s : State) {a b : Word} (v : Word) (h : b ≠ a) :
    (s.memWrite a v).memPeek b = s.memPeek b := by
  rw [memWrite_memPeek, if_neg h]

/-- Every store of the core keeps the canonical form. -/
theorem memWrite_wf {s : State} (h : Memory.wf s.mem) (a v : Word) : Memory.wf (s.memWrite a v).mem :=
  Memory.store_wf h (by have := a.isLt; omega) v

end Sys2Proof.Machine.State
end

