-- ==== Sys2Proof/Laws/Ops.lean ====
section
/-! SUPPORT. For each shared operation, once, everything it can do: the device-aware read (R54), the console
(R221 to R223), fetch (R110), the privilege violation (R203) and the return (R191). -/

namespace Sys2Proof.Machine.State

/-- ConsolePoll promises a character only where one is left, and it is the next one (R222, D17). -/
theorem consolePoll_some {s : State} {c : Byte} (h : s.consolePoll = some c) :
    s.hostAnswer = true ∧ s.input = c :: s.input.tail := by
  unfold consolePoll at h
  split at h
  · cases h
  · rename_i d rest heq
    split at h
    · cases h
      exact ⟨‹_›, by simp [heq]⟩
    · cases h

theorem consoleRead_nil {s : State} (h : s.input = []) : s.consoleRead = none := by
  simp [consoleRead, h]

theorem consoleRead_cons {s : State} {c : Byte} {rest : List Byte} (h : s.input = c :: rest) :
    s.consoleRead = some (c, s.dropInput) := by
  simp [consoleRead, h]

section PollKeyboard

variable (s : State)

/-- What a poll can do: one of two things (R54). -/
theorem pollKeyboard_cases :
    (∃ c, s.consolePoll = some c ∧
      s.pollKeyboard = ((s.nextPoll.memWrite kbsr kbReady).memWrite kbdr (c.setWidth 16)).dropInput) ∨
    (s.consolePoll = none ∧ s.pollKeyboard = s.nextPoll.memWrite kbsr 0x0000#16) := by
  unfold pollKeyboard
  split
  · rename_i c h; exact .inl ⟨c, h, rfl⟩
  · rename_i h; exact .inr ⟨h, rfl⟩

@[simp] theorem pollKeyboard_regs : s.pollKeyboard.regs = s.regs := by
  rcases s.pollKeyboard_cases with ⟨c, -, h⟩ | ⟨-, h⟩ <;> simp [h]
@[simp] theorem pollKeyboard_pc : s.pollKeyboard.pc = s.pc := by
  rcases s.pollKeyboard_cases with ⟨c, -, h⟩ | ⟨-, h⟩ <;> simp [h]
@[simp] theorem pollKeyboard_cond : s.pollKeyboard.cond = s.cond := by
  rcases s.pollKeyboard_cases with ⟨c, -, h⟩ | ⟨-, h⟩ <;> simp [h]
@[simp] theorem pollKeyboard_psw : s.pollKeyboard.psw = s.psw := by
  rcases s.pollKeyboard_cases with ⟨c, -, h⟩ | ⟨-, h⟩ <;> simp [h]
@[simp] theorem pollKeyboard_ssp : s.pollKeyboard.ssp = s.ssp := by
  rcases s.pollKeyboard_cases with ⟨c, -, h⟩ | ⟨-, h⟩ <;> simp [h]
@[simp] theorem pollKeyboard_usp : s.pollKeyboard.usp = s.usp := by
  rcases s.pollKeyboard_cases with ⟨c, -, h⟩ | ⟨-, h⟩ <;> simp [h]
@[simp] theorem pollKeyboard_running : s.pollKeyboard.running = s.running := by
  rcases s.pollKeyboard_cases with ⟨c, -, h⟩ | ⟨-, h⟩ <;> simp [h]
@[simp] theorem pollKeyboard_reason : s.pollKeyboard.reason = s.reason := by
  rcases s.pollKeyboard_cases with ⟨c, -, h⟩ | ⟨-, h⟩ <;> simp [h]
@[simp] theorem pollKeyboard_output : s.pollKeyboard.output = s.output := by
  rcases s.pollKeyboard_cases with ⟨c, -, h⟩ | ⟨-, h⟩ <;> simp [h]
@[simp] theorem pollKeyboard_pollAnswers : s.pollKeyboard.pollAnswers = s.pollAnswers.tail := by
  rcases s.pollKeyboard_cases with ⟨c, -, h⟩ | ⟨-, h⟩ <;> simp [h]
@[simp] theorem pollKeyboard_polls : s.pollKeyboard.polls = s.polls + 1 := by
  rcases s.pollKeyboard_cases with ⟨c, -, h⟩ | ⟨-, h⟩ <;> simp [h]

/-- A poll writes only the two keyboard words (R54, R58). -/
theorem pollKeyboard_memPeek {a : Word} (h₁ : a ≠ kbsr) (h₂ : a ≠ kbdr) :
    s.pollKeyboard.memPeek a = s.memPeek a := by
  rcases s.pollKeyboard_cases with ⟨c, -, h⟩ | ⟨-, h⟩ <;>
    simp [h, memWrite_memPeek_ne, h₁, h₂]

/-- A poll only takes characters from the front of the input (R222). -/
theorem pollKeyboard_input : s.pollKeyboard.input <:+ s.input := by
  rcases s.pollKeyboard_cases with ⟨c, -, h⟩ | ⟨-, h⟩
  · simpa [h] using List.tail_suffix s.input
  · simp [h]

theorem pollKeyboard_wf (h : Memory.wf s.mem) : Memory.wf s.pollKeyboard.mem := by
  rcases s.pollKeyboard_cases with ⟨c, -, e⟩ | ⟨-, e⟩ <;> rw [e]
  · exact memWrite_wf (memWrite_wf (by exact h) _ _) _ _
  · exact memWrite_wf (by exact h) _ _

end PollKeyboard

section AfterRead

variable (s : State) (a : Word)

theorem afterRead_plain {s : State} {a : Word} (h : a ≠ kbsr) : s.afterRead a = s := if_neg h

@[simp] theorem afterRead_regs : (s.afterRead a).regs = s.regs := by unfold afterRead; split <;> simp
@[simp] theorem afterRead_pc : (s.afterRead a).pc = s.pc := by unfold afterRead; split <;> simp
@[simp] theorem afterRead_cond : (s.afterRead a).cond = s.cond := by unfold afterRead; split <;> simp
@[simp] theorem afterRead_psw : (s.afterRead a).psw = s.psw := by unfold afterRead; split <;> simp
@[simp] theorem afterRead_ssp : (s.afterRead a).ssp = s.ssp := by unfold afterRead; split <;> simp
@[simp] theorem afterRead_usp : (s.afterRead a).usp = s.usp := by unfold afterRead; split <;> simp
@[simp] theorem afterRead_running : (s.afterRead a).running = s.running := by unfold afterRead; split <;> simp
@[simp] theorem afterRead_reason : (s.afterRead a).reason = s.reason := by unfold afterRead; split <;> simp
@[simp] theorem afterRead_output : (s.afterRead a).output = s.output := by unfold afterRead; split <;> simp
@[simp] theorem afterRead_reg (r : Reg) : (s.afterRead a).reg r = s.reg r := by simp [reg]

theorem afterRead_memPeek {b : Word} (h : a = kbsr → b ≠ kbsr ∧ b ≠ kbdr) :
    (s.afterRead a).memPeek b = s.memPeek b := by
  unfold afterRead
  split
  · exact s.pollKeyboard_memPeek (h ‹_›).1 (h ‹_›).2
  · rfl

theorem afterRead_input : (s.afterRead a).input <:+ s.input := by
  unfold afterRead
  split
  · exact s.pollKeyboard_input
  · exact List.suffix_refl _

theorem afterRead_wf (h : Memory.wf s.mem) : Memory.wf (s.afterRead a).mem := by
  unfold afterRead
  split
  · exact s.pollKeyboard_wf h
  · exact h

/-- The device action looks at no register: it commutes with writing one (R54). -/
theorem afterRead_setReg (r : Reg) (v : Word) : (s.setReg r v).afterRead a = (s.afterRead a).setReg r v := by
  unfold afterRead pollKeyboard
  split
  · rw [show (s.setReg r v).consolePoll = s.consolePoll from rfl]
    split <;> rfl
  · rfl

theorem afterRead_setPc (v : Word) : (s.setPc v).afterRead a = (s.afterRead a).setPc v := by
  unfold afterRead pollKeyboard
  split
  · rw [show (s.setPc v).consolePoll = s.consolePoll from rfl]
    split <;> rfl
  · rfl

theorem afterRead_setPsw (v : Word) : (s.setPsw v).afterRead a = (s.afterRead a).setPsw v := by
  unfold afterRead pollKeyboard
  split
  · rw [show (s.setPsw v).consolePoll = s.consolePoll from rfl]
    split <;> rfl
  · rfl

@[simp] theorem memRead_state : (s.memRead a).2 = s.afterRead a := rfl
theorem memRead_word : (s.memRead a).1 = (s.afterRead a).memPeek a := rfl

end AfterRead

/-- Fetch and increment (R110). -/
theorem fetch_eq (s : State) :
    s.fetch = ((s.afterRead s.pc).memPeek s.pc, (s.afterRead s.pc).setPc (s.pc + 1#16)) := by
  simp [fetch, memRead_word]

/-- A push writes one word below R6 and moves R6 there (R203). -/
theorem push_eq (s : State) (v : Word) :
    s.push v = (s.setReg .r6 (s.reg .r6 - 1#16)).memWrite (s.reg .r6 - 1#16) v := by
  simp [push]

/-- The privilege violation, field by field (R203). -/
theorem raisePrivilegeViolation_eq (s : State) :
    s.raisePrivilegeViolation =
      { s with
        regs := ((s.regs.set .r6 s.ssp).set .r6 (s.ssp - 1#16)).set .r6 (s.ssp - 1#16 - 1#16)
        psw := s.psw &&& 0x7FFF#16
        mem := (s.mem.store (s.ssp - 1#16).toNat (s.psw &&& 0x7FFF#16)).store (s.ssp - 1#16 - 1#16).toNat s.pc
        pc := violationVector
        running := false
        reason := .privilegeViolation } := rfl

/-- The return from exception, in terms of its two reads (R191). -/
theorem returnFromException_eq (s : State) :
    let m₁ := s.afterRead (s.reg .r6)
    let s₁ := (m₁.setReg .r6 (s.reg .r6 + 1#16)).setPc (m₁.memPeek (s.reg .r6))
    let m₂ := s₁.afterRead (s.reg .r6 + 1#16)
    s.returnFromException =
      ((m₂.setReg .r6 (s.reg .r6 + 1#16 + 1#16)).setPsw (m₂.memPeek (s.reg .r6 + 1#16))).setReg .r6 s.usp := by
  simp [returnFromException, pop, memRead_word]

end Sys2Proof.Machine.State
end

