-- ==== Sys2Proof/Laws/PerInstr.lean ====
section
/-! SUPPORT. Family RowMatch: the word the encoder writes stands in its instruction's row of the opcode
table, the row's mask and match being those of the table (R98). One lemma per constructor. -/

namespace Sys2Proof.Laws.RowMatch

/-- The encoded word has the row's fixed bits. -/
def Statement (i : Instr) : Prop := encode i &&& i.rowMask = i.rowMatch

theorem br (nzp : BitVec 3) (off9 : BitVec 9) : Statement (.br nzp off9) := by
  unfold Statement Instr.rowMask Instr.rowMatch
  ext i hi
  simp only [encode, BitVec.getElem_and, BitVec.getElem_append]
  interval_cases i <;> simp

theorem addReg (dr sr1 sr2 : Reg) : Statement (.addReg dr sr1 sr2) := encodeOp_mode_mask _ _ _ _ _

theorem addImm (dr sr1 : Reg) (imm5 : BitVec 5) : Statement (.addImm dr sr1 imm5) := encodeOp_mode_mask _ _ _ _ _

theorem ld (dr : Reg) (off9 : BitVec 9) : Statement (.ld dr off9) := encodePcRel_opcode_mask _ _ _

theorem st (sr : Reg) (off9 : BitVec 9) : Statement (.st sr off9) := encodePcRel_opcode_mask _ _ _

theorem jsr (off11 : BitVec 11) : Statement (.jsr off11) := by
  unfold Statement Instr.rowMask Instr.rowMatch
  ext i hi
  simp only [encode, BitVec.getElem_and, BitVec.getElem_append]
  interval_cases i <;> simp

theorem jsrr (base : Reg) : Statement (.jsrr base) := encodeOp_jsrr_mask _ _ _

theorem andReg (dr sr1 sr2 : Reg) : Statement (.andReg dr sr1 sr2) := encodeOp_mode_mask _ _ _ _ _

theorem andImm (dr sr1 : Reg) (imm5 : BitVec 5) : Statement (.andImm dr sr1 imm5) := encodeOp_mode_mask _ _ _ _ _

theorem ldr (dr base : Reg) (off6 : BitVec 6) : Statement (.ldr dr base off6) := encodeOp_opcode_mask _ _ _ _

theorem str (sr base : Reg) (off6 : BitVec 6) : Statement (.str sr base off6) := encodeOp_opcode_mask _ _ _ _

theorem rti : Statement (.rti) := rfl

theorem not (dr sr : Reg) : Statement (.not dr sr) := encodeOp_opcode_mask _ _ _ _

theorem ldi (dr : Reg) (off9 : BitVec 9) : Statement (.ldi dr off9) := encodePcRel_opcode_mask _ _ _

theorem sti (sr : Reg) (off9 : BitVec 9) : Statement (.sti sr off9) := encodePcRel_opcode_mask _ _ _

theorem jmp (base : Reg) : Statement (.jmp base) := encodeOp_opcode_mask _ _ _ _

theorem reserved : Statement (.reserved) := rfl

theorem lea (dr : Reg) (off9 : BitVec 9) : Statement (.lea dr off9) := encodePcRel_opcode_mask _ _ _

theorem trapGetc : Statement .trapGetc := rfl

theorem trapOut : Statement .trapOut := rfl

theorem trapPuts : Statement .trapPuts := rfl

theorem trapIn : Statement .trapIn := rfl

theorem trapPutsp : Statement .trapPutsp := rfl

theorem trapHalt : Statement .trapHalt := rfl

theorem trap (vect8 : BitVec 8) : Statement (.trap vect8) := by
  unfold Statement Instr.rowMask Instr.rowMatch
  ext i hi
  simp only [encode, encodeTrap, BitVec.getElem_and, BitVec.getElem_append]
  interval_cases i <;> simp

end Sys2Proof.Laws.RowMatch
end

