-- ==== Sys2Proof/Laws/Run.lean ====
section
/-! SUPPORT. Runs of the host's machine (Host.Core.run), one step at a time, and the induction over a run:
what every step keeps holds at the end. Stated first for every machine, since the types of `core` are behind
a definition, and then for this one. -/

namespace Sys2Proof.Laws

open Sys2Proof.Machine

section AnyCore

variable {M : Host.Core} {k : Nat} {s t : M.State}

theorem anyCore_run_next (h : M.step s = .next t) : M.run (k + 1) s = M.run k t := by
  rw [Host.Core.run, h]

theorem anyCore_run_fault {f : M.Fault} (h : M.step s = .fault f) : M.run (k + 1) s = .fault f := by
  rw [Host.Core.run, h]

theorem anyCore_run_refused {r : M.Refusal} (h : M.step s = .refused r) : M.run (k + 1) s = .refused r := by
  rw [Host.Core.run, h]

theorem anyCore_run_induction {P : M.State → Prop} (keep : ∀ s t, P s → M.step s = .next t → P t)
    (h : P s) (e : M.run k s = .next t) : P t := by
  induction k generalizing s with
  | zero => cases e; exact h
  | succ k ih =>
    cases hs : M.step s with
    | next u => exact ih (keep s u h hs) ((anyCore_run_next hs).symm.trans e)
    | fault f => exact nomatch (anyCore_run_fault hs).symm.trans e
    | refused r => exact nomatch (anyCore_run_refused hs).symm.trans e

end AnyCore

theorem run_zero (s : State) : Host.Core.run Sys2Proof.core 0 s = .next s := rfl

theorem run_next {k : Nat} {s t : State} (h : step s = .next t) :
    Host.Core.run Sys2Proof.core (k + 1) s = Host.Core.run Sys2Proof.core k t :=
  anyCore_run_next (M := Sys2Proof.core) h

theorem run_fault {k : Nat} {s : State} {f : Fault} (h : step s = .fault f) :
    Host.Core.run Sys2Proof.core (k + 1) s = .fault f :=
  anyCore_run_fault (M := Sys2Proof.core) h

theorem run_refused {k : Nat} {s : State} {r : Refusal} (h : step s = .refused r) :
    Host.Core.run Sys2Proof.core (k + 1) s = .refused r :=
  anyCore_run_refused (M := Sys2Proof.core) h

/-- What holds of a state and is kept by every step holds at the end of every run. -/
theorem run_induction {P : State → Prop} (keep : ∀ s t, P s → step s = .next t → P t) {k : Nat}
    {s t : State} (h : P s) (e : Host.Core.run Sys2Proof.core k s = .next t) : P t :=
  anyCore_run_induction (M := Sys2Proof.core) (P := P) keep h e

end Sys2Proof.Laws
end

