-- ==== Sys2Proof/Laws/Step.lean ====
section
/-! SUPPORT. What a step can do, once: an inversion lemma for `step`, one for the blocking read, and the
dispatch of the general TRAP row. -/

namespace Sys2Proof.Machine

/-- If a step answers a next state, the core was running and the decoded instruction answered it (R110). -/
theorem step_next {s t : State} (h : step s = .next t) :
    s.running = true ∧ exec (decode s.fetch.1) s.fetch.2 = .next t := by
  unfold step at h
  split at h
  · exact ⟨‹_›, h⟩
  · cases h

/-- What GETC, and IN after its prompt, can do: block where no character is left, or take one (R117, R168,
R173). -/
theorem readChar_cases (s : State) (echo : Bool) :
    (s.input = [] ∧ s.readChar echo = .fault (.waitingForInput s.output)) ∨
    ∃ c rest, s.input = c :: rest ∧
      s.readChar echo = .next ((s.dropInput.setReg .r0 (zext c)).consoleWrite (if echo then [c] else [])) := by
  unfold State.readChar
  cases h : s.input with
  | nil => exact .inl ⟨rfl, by rw [State.consoleRead_nil h]⟩
  | cons c rest =>
    refine .inr ⟨c, rest, rfl, ?_⟩
    rw [State.consoleRead_cons h]
    cases echo
    · simp [State.consoleWrite]; rfl
    · rfl

/-- The general TRAP row is one of the six services, or nothing (R165, R177). -/
theorem execTrap_cases (v : BitVec 8) (s : State) :
    (v = 0x20#8 ∧ execTrap v s = s.serviceGetc) ∨ (v = 0x21#8 ∧ execTrap v s = s.serviceOut) ∨
    (v = 0x22#8 ∧ execTrap v s = s.servicePuts) ∨ (v = 0x23#8 ∧ execTrap v s = s.serviceIn) ∨
    (v = 0x24#8 ∧ execTrap v s = s.servicePutsp) ∨ (v = 0x25#8 ∧ execTrap v s = s.serviceHalt) ∨
    (v ∉ definedSelectors ∧ execTrap v s = .next s) := by
  unfold execTrap
  split
  · exact .inl ⟨rfl, rfl⟩
  · exact .inr (.inl ⟨rfl, rfl⟩)
  · exact .inr (.inr (.inl ⟨rfl, rfl⟩))
  · exact .inr (.inr (.inr (.inl ⟨rfl, rfl⟩)))
  · exact .inr (.inr (.inr (.inr (.inl ⟨rfl, rfl⟩))))
  · exact .inr (.inr (.inr (.inr (.inr (.inl ⟨rfl, rfl⟩)))))
  · rename_i h0 h1 h2 h3 h4 h5
    refine .inr (.inr (.inr (.inr (.inr (.inr ⟨?_, rfl⟩)))))
    simpa [definedSelectors] using ⟨h0, h1, h2, h3, h4, h5⟩

end Sys2Proof.Machine
end

