-- ==== Sys2Proof/Tests/Slice0.lean ====
section
/-! SUPPORT. The model's own tests: ill-formed terms refused, one written-out word for each constructor, at most
two single steps for each instruction with results from spec/95_test_vectors.md (the vector's name is in the
theorem's), and a witness for the hypotheses of each statement that has any. -/

namespace Sys2Proof.Tests

open Sys2Proof Sys2Proof.Machine

/-- What a function says of the next state of an outcome, if there is one. -/
def after {α : Type} (o : Host.Outcome State Fault Refusal) (f : State → α) : Option α :=
  match o with
  | .next t => some (f t)
  | .fault _ => none
  | .refused _ => none

/-- The fault of an outcome, if there is one. -/
def faultOf (o : Host.Outcome State Fault Refusal) : Option Fault :=
  match o with
  | .next _ => none
  | .fault f => some f
  | .refused _ => none

theorem after_some {α : Type} {o : Host.Outcome State Fault Refusal} {f : State → α} {v : α}
    (h : after o f = some v) : ∃ t, o = .next t ∧ f t = v := by
  cases o with
  | next t => exact ⟨t, rfl, Option.some.inj h⟩
  | fault _ => exact nomatch h
  | refused _ => exact nomatch h

/-- The reset state of the vectors: ORIGIN = 3000, PSW_RESET_LOW = 0, an input and poll answers. -/
def base (input : List Byte) (polls : List Bool) : State := State.boot 0x3000#16 0#15 input polls

/-- The reset state of the vectors with an instruction word at 3000. -/
def start (w : Word) : State := (base [] []).memWrite 0x3000#16 w

/-! ### Well-formedness: the six selectors with rows of their own are refused -/

theorem test_wf_refuses_getc : (Instr.trap 0x20#8).wf = false := by decide
theorem test_wf_refuses_out : (Instr.trap 0x21#8).wf = false := by decide
theorem test_wf_refuses_puts : (Instr.trap 0x22#8).wf = false := by decide
theorem test_wf_refuses_in : (Instr.trap 0x23#8).wf = false := by decide
theorem test_wf_refuses_putsp : (Instr.trap 0x24#8).wf = false := by decide
theorem test_wf_refuses_halt : (Instr.trap 0x25#8).wf = false := by decide
theorem test_wf_accepts_neighbours :
    (Instr.trap 0x1F#8).wf = true ∧ (Instr.trap 0x26#8).wf = true := by decide

/-! ### Decoding: words written out from the formats R82 to R92, with each row's mask and match, which also meet
the first hypothesis of the instruction's statement. Ignored bits are set in some. -/

theorem test_decode_br : 0b0000101100000001#16 &&& 0xF000#16 = 0x0000#16 ∧
    decode 0b0000101100000001#16 = .br 0b101#3 0b100000001#9 := by decide
theorem test_decode_addReg : 0b0001001010011011#16 &&& 0xF020#16 = 0x1000#16 ∧
    decode 0b0001001010011011#16 = .addReg .r1 .r2 .r3 := by decide
theorem test_decode_addImm : 0b0001001010111101#16 &&& 0xF020#16 = 0x1020#16 ∧
    decode 0b0001001010111101#16 = .addImm .r1 .r2 0b11101#5 := by decide
theorem test_decode_ld : 0b0010010000001111#16 &&& 0xF000#16 = 0x2000#16 ∧
    decode 0b0010010000001111#16 = .ld .r2 0x00F#9 := by decide
theorem test_decode_st : 0b0011011111111110#16 &&& 0xF000#16 = 0x3000#16 ∧
    decode 0b0011011111111110#16 = .st .r3 0x1FE#9 := by decide
theorem test_decode_jsr : 0b0100110000000001#16 &&& 0xF800#16 = 0x4800#16 ∧
    decode 0b0100110000000001#16 = .jsr 0x401#11 := by decide
theorem test_decode_jsrr : 0b0100011011111111#16 &&& 0xF800#16 = 0x4000#16 ∧
    decode 0b0100011011111111#16 = .jsrr .r3 := by decide
theorem test_decode_andReg : 0b0101100101000110#16 &&& 0xF020#16 = 0x5000#16 ∧
    decode 0b0101100101000110#16 = .andReg .r4 .r5 .r6 := by decide
theorem test_decode_andImm : 0b0101010010110000#16 &&& 0xF020#16 = 0x5020#16 ∧
    decode 0b0101010010110000#16 = .andImm .r2 .r2 0b10000#5 := by decide
theorem test_decode_ldr : 0b0110100101111111#16 &&& 0xF000#16 = 0x6000#16 ∧
    decode 0b0110100101111111#16 = .ldr .r4 .r5 0b111111#6 := by decide
theorem test_decode_str : 0b0111001110100000#16 &&& 0xF000#16 = 0x7000#16 ∧
    decode 0b0111001110100000#16 = .str .r1 .r6 0b100000#6 := by decide
theorem test_decode_rti : 0b1000111111111111#16 &&& 0xF000#16 = 0x8000#16 ∧
    decode 0b1000111111111111#16 = .rti ∧ decode 0b1000000000000000#16 = .rti := by decide
theorem test_decode_not : 0b1001011100000000#16 &&& 0xF000#16 = 0x9000#16 ∧
    decode 0b1001011100000000#16 = .not .r3 .r4 ∧ decode 0b1001011100111111#16 = .not .r3 .r4 := by decide
theorem test_decode_ldi : 0b1010001000000100#16 &&& 0xF000#16 = 0xA000#16 ∧
    decode 0b1010001000000100#16 = .ldi .r1 0x004#9 := by decide
theorem test_decode_sti : 0b1011111000000001#16 &&& 0xF000#16 = 0xB000#16 ∧
    decode 0b1011111000000001#16 = .sti .r7 0x001#9 := by decide
theorem test_decode_jmp : 0b1100111010111111#16 &&& 0xF000#16 = 0xC000#16 ∧
    decode 0b1100111010111111#16 = .jmp .r2 := by decide
theorem test_decode_reserved : 0b1101111111111111#16 &&& 0xF000#16 = 0xD000#16 ∧
    decode 0b1101111111111111#16 = .reserved ∧ decode 0b1101000000000000#16 = .reserved := by decide
theorem test_decode_lea : 0b1110101111111111#16 &&& 0xF000#16 = 0xE000#16 ∧
    decode 0b1110101111111111#16 = .lea .r5 0x1FF#9 := by decide
theorem test_decode_trapGetc : 0b1111000000100000#16 &&& 0xF0FF#16 = 0xF020#16 ∧
    decode 0b1111000000100000#16 = .trapGetc := by decide
theorem test_decode_trapOut : 0b1111111100100001#16 &&& 0xF0FF#16 = 0xF021#16 ∧
    decode 0b1111111100100001#16 = .trapOut := by decide
theorem test_decode_trapPuts : 0b1111000000100010#16 &&& 0xF0FF#16 = 0xF022#16 ∧
    decode 0b1111000000100010#16 = .trapPuts := by decide
theorem test_decode_trapIn : 0b1111000000100011#16 &&& 0xF0FF#16 = 0xF023#16 ∧
    decode 0b1111000000100011#16 = .trapIn := by decide
theorem test_decode_trapPutsp : 0b1111000000100100#16 &&& 0xF0FF#16 = 0xF024#16 ∧
    decode 0b1111000000100100#16 = .trapPutsp := by decide
theorem test_decode_trapHalt : 0b1111000000100101#16 &&& 0xF0FF#16 = 0xF025#16 ∧
    decode 0b1111000000100101#16 = .trapHalt := by decide
theorem test_decode_trap : 0b1111111100011111#16 &&& 0xF000#16 = 0xF000#16 ∧
    decode 0b1111111100011111#16 = .trap 0x1F#8 ∧ decode 0b1111000000100110#16 = .trap 0x26#8 ∧
    decode 0b1111000000000000#16 = .trap 0x00#8 ∧ decode 0b1111000011111111#16 = .trap 0xFF#8 := by decide
theorem test_decodeTableWord : decodeTableWord 16 0x12BD = some (.addImm .r1 .r2 0b11101#5) ∧
    decodeTableWord 17 0 = none := by decide
theorem test_encode_canonical : encode (.not .r3 .r4) = 0x973F#16 ∧ encode (.jmp .r7) = 0xC1C0#16 ∧
    encode (.addReg .r1 .r2 .r3) = 0x1283#16 := by decide

/-! ### Single steps: the vectors of spec/95_test_vectors.md -/

theorem test_V1_add_overflow : after (step (((start 0x1283#16).setReg .r2 0x7FFF#16).setReg .r3 0x0001#16))
    (fun t => (t.reg .r1, t.cond, t.pc)) = some (0x8000#16, 0b100#3, 0x3001#16) := by decide
theorem test_V2_add_carry_dropped : after (step (((start 0x1283#16).setReg .r2 0xFFFF#16).setReg .r3 0x0001#16))
    (fun t => (t.reg .r1, t.cond)) = some (0x0000#16, 0b010#3) := by decide
theorem test_V4_add_immediate : after (step ((start 0x12BD#16).setReg .r2 0x0005#16))
    (fun t => (t.reg .r1, t.cond, t.pc)) = some (0x0002#16, 0b001#3, 0x3001#16) := by decide
theorem test_V6_add_smallest_immediate : after (step ((start 0x1270#16).setReg .r1 0x000F#16))
    (fun t => (t.reg .r1, t.cond)) = some (0xFFFF#16, 0b100#3) := by decide
theorem test_V8_and : after (step (((start 0x5946#16).setReg .r5 0xF0F0#16).setReg .r6 0x0FF0#16))
    (fun t => (t.reg .r4, t.cond)) = some (0x00F0#16, 0b001#3) := by decide
theorem test_V10_and_immediate_extended : after (step ((start 0x54BF#16).setReg .r2 0x8001#16))
    (fun t => (t.reg .r2, t.cond)) = some (0x8001#16, 0b100#3) := by decide
theorem test_V11_and_immediate : after (step ((start 0x54AF#16).setReg .r2 0xABCD#16))
    (fun t => (t.reg .r2, t.cond)) = some (0x000D#16, 0b001#3) := by decide
theorem test_V13_not_to_zero : after (step ((start 0x973F#16).setReg .r4 0xFFFF#16))
    (fun t => (t.reg .r3, t.cond)) = some (0x0000#16, 0b010#3) := by decide
theorem test_V14_not_ignored_bits : after (step ((start 0x9700#16).setReg .r4 0x7FFF#16))
    (fun t => (t.reg .r3, t.cond)) = some (0x8000#16, 0b100#3) := by decide
theorem test_V21_ld_backwards : after (step ((start 0x2500#16).memWrite 0x2F01#16 0x0001#16))
    (fun t => (t.reg .r2, t.cond, t.pc)) = some (0x0001#16, 0b001#3, 0x3001#16) := by decide
theorem test_V22_ld_wraps : after (step ((((State.boot 0xFFFF#16 0#15 [] []).memWrite 0xFFFF#16 0x2001#16).setCond
    0b001#3).setReg .r0 0x7777#16)) (fun t => (t.reg .r0, t.cond, t.pc)) = some (0x0000#16, 0b010#3, 0x0000#16) := by
  decide
theorem test_V23_ldi : after (step (((start 0xA204#16).memWrite 0x3005#16 0x4000#16).memWrite 0x4000#16 0x8000#16))
    (fun t => (t.reg .r1, t.cond)) = some (0x8000#16, 0b100#3) := by decide
theorem test_P4_ldi_polls : after (step (((base [0x61#8, 0x62#8] [true]).memWrite 0x3000#16 0xA204#16).memWrite
    0x3005#16 0xFE00#16)) (fun t => (t.reg .r1, t.memPeek 0xFE02#16, t.input)) =
    some (0x8000#16, 0x0061#16, [0x62#8]) := by decide
theorem test_V34_ldr_polls_ready : after (step (((base [0x41#8] [true]).memWrite 0x3000#16 0x6280#16).setReg .r2
    0xFE00#16)) (fun t => (t.reg .r1, t.cond, t.memPeek 0xFE00#16, t.memPeek 0xFE02#16, t.input)) =
    some (0x8000#16, 0b100#3, 0x8000#16, 0x0041#16, []) := by decide
theorem test_V35_ldr_polls_not_ready : after (step (((((base [0x41#8] [false]).memWrite 0x3000#16 0x6280#16).setReg .r2
    0xFE00#16).memWrite 0xFE00#16 0x1234#16).memWrite 0xFE02#16 0x0055#16))
    (fun t => (t.reg .r1, t.cond, t.memPeek 0xFE00#16, t.memPeek 0xFE02#16, t.input)) =
    some (0x0000#16, 0b010#3, 0x0000#16, 0x0055#16, [0x41#8]) := by decide
theorem test_V26_lea : after (step (start 0xE002#16)) (fun t => (t.reg .r0, t.cond, t.pc)) =
    some (0x3003#16, 0b001#3, 0x3001#16) := by decide
theorem test_V28_lea_wraps : after (step ((State.boot 0xFFFF#16 0#15 [] []).memWrite 0xFFFF#16 0xEBFF#16))
    (fun t => (t.reg .r5, t.cond, t.pc)) = some (0xFFFF#16, 0b100#3, 0x0000#16) := by decide
theorem test_V30_st : after (step (((start 0x37FE#16).setReg .r3 0xCAFE#16).setCond 0b010#3))
    (fun t => (t.memPeek 0x2FFF#16, t.cond, t.pc)) = some (0xCAFE#16, 0b010#3, 0x3001#16) := by decide
theorem test_V31_sti : after (step (((start 0xBE01#16).setReg .r7 0x1234#16).memWrite 0x3002#16 0x5000#16))
    (fun t => (t.memPeek 0x5000#16, t.memPeek 0x3002#16, t.cond)) = some (0x1234#16, 0x5000#16, 0b000#3) := by
  decide
theorem test_V33_str_wraps : after (step (((start 0x73A0#16).setReg .r1 0xAAAA#16).setReg .r6 0x0010#16))
    (fun t => (t.memPeek 0xFFF0#16, t.pc)) = some (0xAAAA#16, 0x3001#16) := by decide
theorem test_V37_str_to_kbsr : after (step ((((base [0x41#8] [true]).memWrite 0x3000#16 0x7380#16).setReg .r1
    0x1234#16).setReg .r6 0xFE00#16)) (fun t => (t.memPeek 0xFE00#16, t.memPeek 0xFE02#16, t.input)) =
    some (0x1234#16, 0x0000#16, [0x41#8]) := by decide
theorem test_V46_br_taken : after (step ((start 0x0900#16).setCond 0b100#3)) State.pc = some 0x2F01#16 := by decide
theorem test_V43_br_before_flags : after (step (start 0x0E05#16)) State.pc = some 0x3001#16 := by decide
theorem test_V50_jmp_ignored_bits : after (step ((start 0xCEBF#16).setReg .r2 0x4000#16)) State.pc =
    some 0x4000#16 := by decide
theorem test_V49_ret : after (step ((start 0xC1C0#16).setReg .r7 0x3456#16)) (fun t => (t.pc, t.reg .r7)) =
    some (0x3456#16, 0x3456#16) := by decide
theorem test_V52_jsr_backwards : after (step (start 0x4C00#16)) (fun t => (t.reg .r7, t.pc)) =
    some (0x3001#16, 0x2C01#16) := by decide
theorem test_V54_jsrr : after (step ((start 0x40C0#16).setReg .r3 0x5000#16)) (fun t => (t.reg .r7, t.pc)) =
    some (0x3001#16, 0x5000#16) := by decide
theorem test_V55_jsrr_r7_falls_through : after (step ((start 0x41C0#16).setReg .r7 0x5000#16))
    (fun t => (t.reg .r7, t.pc)) = some (0x3001#16, 0x3001#16) := by decide
theorem test_V57_reserved : after (step (((start 0xDFFF#16).setReg .r1 0x0007#16).setCond 0b100#3))
    (fun t => (t.pc, t.reg .r1, t.cond, t.running)) = some (0x3001#16, 0x0007#16, 0b100#3, true) := by decide
theorem test_V60_getc : after (step (((base [0x41#8] []).memWrite 0x3000#16 0xF020#16).setReg .r0 0xFFFF#16))
    (fun t => (t.reg .r0, t.output, t.input, t.pc)) = some (0x0041#16, [], [], 0x3001#16) := by decide
theorem test_V61_getc_stuck : faultOf (step (start 0xF020#16)) = some (.waitingForInput []) := by decide
theorem test_V62_out : after (step ((start 0xF021#16).setReg .r0 0x1241#16)) (fun t => (t.output, t.reg .r0)) =
    some ([0x41#8], 0x1241#16) := by decide
theorem test_V65_puts_low_bytes : after (step ((((start 0xF022#16).setReg .r0 0x4000#16).memWrite 0x4000#16
    0x0141#16).memWrite 0x4001#16 0x0100#16)) State.output = some [0x41#8, 0x00#8] := by decide
theorem test_V66_puts_wraps : after (step ((((start 0xF022#16).setReg .r0 0xFFFF#16).memWrite 0xFFFF#16
    0x0041#16).memWrite 0x0000#16 0x0042#16)) State.output = some [0x41#8, 0x42#8] := by decide
theorem test_V68_in : after (step ((base [0x7A#8] []).memWrite 0x3000#16 0xF023#16))
    (fun t => (t.reg .r0, t.input, t.cond)) = some (0x007A#16, [], 0b000#3) := by decide
theorem test_V70_putsp : after (step (((((start 0xF024#16).setReg .r0 0x4000#16).memWrite 0x4000#16
    0x4948#16).memWrite 0x4001#16 0x0021#16).memWrite 0x4002#16 0x4141#16)) State.output =
    some [0x48#8, 0x49#8, 0x21#8] := by decide
theorem test_V71_putsp_zero_low_byte : after (step (((start 0xF024#16).setReg .r0 0x4000#16).memWrite 0x4000#16
    0x4100#16)) State.output = some [] := by decide
theorem test_V74_halt : after (step (start 0xF025#16)) (fun t => (t.running, t.reason, t.pc)) =
    some (false, .normalHalt, 0x3001#16) := by decide
theorem test_V77_trap_undefined : after (step (start 0xF026#16)) id =
    some ((start 0xF026#16).setPc 0x3001#16) := by decide
theorem test_V81_rti_user : after (step (((State.boot 0x3000#16 2#15 [] []).memWrite 0x3000#16 0x8000#16).setReg .r6
    0x4000#16)) (fun t => (t.psw, t.reg .r6, t.memPeek 0xFFFF#16, t.memPeek 0xFFFE#16, t.pc, t.reason)) =
    some (0x0002#16, 0xFFFE#16, 0x0002#16, 0x3001#16, 0x0100#16, .privilegeViolation) := by decide

/-- The premised state of V83. -/
def supervisor : State :=
  (((((State.boot 0x0200#16 0#15 [] []).memWrite 0x0200#16 0x8000#16).setPsw 0x0002#16).setReg .r6
    0x2FFE#16).memWrite 0x2FFE#16 0x3005#16).memWrite 0x2FFF#16 0x8002#16

theorem test_V83_rti_supervisor : after (step { supervisor with usp := 0xBFF0#16 })
    (fun t => (t.pc, t.psw, t.reg .r6, t.running, t.usp)) =
    some (0x3005#16, 0x8002#16, 0xBFF0#16, true, 0xBFF0#16) := by decide

/-! ### The step, the load interface -/

theorem test_V92_fetch_polls : after (step (State.boot 0xFE00#16 0#15 [0x41#8] [true]))
    (fun t => (t.memPeek 0xFE02#16, t.memPeek 0xFFFE#16, t.reason)) =
    some (0x0041#16, 0xFE01#16, .privilegeViolation) := by decide
theorem test_V94_halted : faultOf (step ((start 0x1283#16).halt .normalHalt)) = some .halted := by decide
theorem test_E8_launchFile : after (launchFile [0x30#8, 0x00#8, 0x12#8, 0x34#8] 0#15 [] [])
    (fun t => (t.pc, t.memPeek 0x3000#16, t.mem.length)) = some (0x3000#16, 0x1234#16, 1) := by decide
theorem test_withFetchWord_runs : after (step (State.reset.withFetchWord 16 0x102F))
    (fun t => (t.reg .r0, t.pc)) = some (0x000F#16, 0x3001#16) := by decide
theorem test_reset_memory_wf : State.reset.mem.wf := by decide

/-! ### Witnesses: concrete values that meet the hypotheses of a statement, clause by clause. The masks of the
decode tests above meet the first clause of the statements about one instruction. -/

/-- `FlagsFollow`, in every statement with `ResultWritten`: zero, the least and the greatest of each sign. -/
theorem witness_FlagsFollow_values : (0x0000#16 : Word) = 0x0000#16 ∧ (0x8000#16 : Word).getLsbD 15 = true ∧
    (0xFFFF#16 : Word).getLsbD 15 = true ∧ (0x0001#16 : Word).getLsbD 15 = false ∧
    (0x7FFF#16 : Word).getLsbD 15 = false := by decide

/-- `ReadLeaves`, in every statement with a device-aware read: the neighbours of 0xFE00, and both answers. -/
theorem witness_ReadLeaves_clauses : (0xFDFF#16 : Word) ≠ 0xFE00#16 ∧ (0xFE01#16 : Word) ≠ 0xFE00#16 ∧
    (base [] [true]).consolePoll = none ∧ (base [0x41#8] [false]).consolePoll = none ∧
    (base [0x41#8] [true]).consolePoll = some 0x41#8 := by decide

theorem witness_BranchOnFlags_masks : (0b111#3 : BitVec 3) &&& 0b100#3 ≠ 0b000#3 ∧
    (0b011#3 : BitVec 3) &&& 0b100#3 = 0b000#3 ∧ (0b111#3 : BitVec 3) &&& 0b000#3 = 0b000#3 := by decide

theorem witness_BranchOnFlags_cond : (base [] []).cond = 0b000#3 ∧ ((base [] []).setCond 0b100#3).cond = 0b100#3 ∧
    ((base [] []).setCond 0b010#3).cond = 0b010#3 ∧ ((base [] []).setCond 0b001#3).cond = 0b001#3 := by decide

theorem witness_GetcReadsCharacter : (base [0xFF#8] []).input = 0xFF#8 :: [] ∧ (base [] []).input = [] := by decide

theorem witness_InPromptsReadsEchoes :
    (base [0x00#8, 0x7A#8] []).input = 0x00#8 :: [0x7A#8] ∧ (base [] []).input = [] := by decide

theorem witness_TrapDispatchesOnSelector : (0xF01F#16 : Word) &&& 0xF000#16 = 0xF000#16 ∧
    (0xF01F#16 : Word).extractLsb' 0 8 ∉ definedSelectors ∧ 0x26#8 ∉ definedSelectors ∧
    0x00#8 ∉ definedSelectors ∧ 0xFF#8 ∉ definedSelectors := by decide

theorem witness_RtiReturnsInSupervisorMode : supervisor.psw.getLsbD 15 = false := by decide

theorem witness_RtiViolatesPrivilegeInUserMode : (start 0x8000#16).psw.getLsbD 15 = true := by decide

theorem witness_DecodeOfEncode : (Instr.not .r3 .r4).wf = true ∧ (Instr.trap 0xFF#8).wf = true ∧
    (Instr.br 0b111#3 0x1FF#9).wf = true := by decide

theorem witness_SameInstructionUpToIgnoredBits : decode 0xC080#16 = decode 0xCEBF#16 ∧
    decode 0xC080#16 ≠ decode 0xC0C0#16 := by decide

theorem witness_SignExtension_bounds : (1 ≤ 1 ∧ 1 ≤ 16) ∧ (1 ≤ 16 ∧ 16 ≤ 16) ∧
    (1#1 : BitVec 1).getLsbD (1 - 1) = true ∧ (0x8000#16 : BitVec 16).getLsbD (16 - 1) = true ∧
    (0x0F#5 : BitVec 5).getLsbD (5 - 1) = false := by decide

theorem witness_PollAnswersAreTheHosts : (base [] [true]).input = [] ∧
    (base [0x41#8] [true]).input = [0x41#8] ∧ (base [0x41#8] [true]).pollAnswers = true :: [] ∧
    (base [0x41#8] [false, true]).pollAnswers = false :: [true] := by decide

/-- Two orders of storing the same words at the ends of memory, and a word stored and taken back. -/
theorem witness_CanonicalMemoryIsExtensional :
    let m := Memory.store (Memory.store [] 0 0x0001#16) 65535 0x8000#16
    let n := Memory.store (Memory.store (Memory.store (Memory.store [] 65535 0x8000#16) 7 0x0003#16) 0 0x0001#16) 7
      0x0000#16
    m.wf ∧ n.wf ∧ ∀ a < 65536, m.load a = n.load a :=
  ⟨by decide, by decide, fun _ _ => by rfl⟩

/-- A load that polls, and an address the poll does not write; a store, and the address beside it. -/
theorem witness_MemoryWritersAreTheListed :
    (∃ t, exec (.ldr .r1 .r2 0#6) ((base [] []).setReg .r2 0xFE00#16) = .next t ∧ t.pc = 0x3000#16) ∧
    (0xFE00#16 ∈ readAddrs (.ldr .r1 .r2 0#6) ((base [] []).setReg .r2 0xFE00#16)) ∧
    0xFE01#16 ∉ storeAddrs (.ldr .r1 .r2 0#6) ((base [] []).setReg .r2 0xFE00#16) ∧
    (∃ t, exec (.st .r0 0#9) (base [] []) = .next t ∧ t.pc = 0x3000#16) ∧
    0x3001#16 ∉ storeAddrs (.st .r0 0#9) (base [] []) ∧
    0xFE00#16 ∉ readAddrs (.st .r0 0#9) (base [] []) :=
  ⟨after_some (f := State.pc) (by decide), by decide, by decide, after_some (f := State.pc) (by decide), by decide,
    by decide⟩

/-- StepRunsDecodedInstruction and OnlyBlockedReadsDoNotComplete. -/
theorem witness_running : (start 0x1283#16).running = true := by decide

theorem witness_HaltedCoreHasNoStep : ((start 0x1283#16).halt .normalHalt).running = false := by decide

/-- The state of an ST #0, an STI #1 whose pointer holds 3000, or an STR with base 3000, after its fetch: each stores
at the pc, 3000. -/
def storing : State := (((base [] []).setReg .r3 0x1021#16).setReg .r6 0x3000#16).memWrite 0x3001#16 0x3000#16

theorem witness_StoreIsSeenByNextFetch : storing.running = true ∧ storing.pc ≠ 0xFE00#16 ∧
    (∃ t, exec (.st .r3 0#9) storing = .next t ∧ t.memPeek 0x3000#16 = 0x1021#16) ∧
    (∃ t, exec (.sti .r3 1#9) storing = .next t ∧ t.memPeek 0x3000#16 = 0x1021#16) ∧
    (∃ t, exec (.str .r3 .r6 0#6) storing = .next t ∧ t.memPeek 0x3000#16 = 0x1021#16) ∧
    storedReg (.st .r3 0#9) = some .r3 ∧ storedReg (.sti .r3 1#9) = some .r3 ∧
    storedReg (.str .r3 .r6 0#6) = some .r3 ∧ storing.pc ∈ storeAddrs (.st .r3 0#9) storing ∧
    storing.pc ∈ storeAddrs (.sti .r3 1#9) storing ∧ storing.pc ∈ storeAddrs (.str .r3 .r6 0#6) storing :=
  ⟨by decide, by decide, after_some (f := fun t => t.memPeek 0x3000#16) (by decide),
    after_some (f := fun t => t.memPeek 0x3000#16) (by decide),
    after_some (f := fun t => t.memPeek 0x3000#16) (by decide), by decide, by decide, by decide, by decide, by decide,
    by decide⟩

/-- OnlySevenInstructionsSetFlags and RegisterWritersAreTheListed: an instruction that sets the flags, one that
does not, and the general TRAP row on both kinds of selector. -/
theorem witness_exec_next : (∃ t, exec (.lea .r5 0x1FF#9) (base [] []) = .next t ∧ t.cond = 0b001#3) ∧
    (∃ t, exec (.st .r0 0#9) (base [] []) = .next t ∧ t.cond = 0b000#3) ∧
    (∃ t, exec (.trap 0x20#8) (base [0x41#8] []) = .next t ∧ t.cond = 0b000#3) ∧
    (∃ t, exec (.trap 0xFF#8) (base [] []) = .next t ∧ t.cond = 0b000#3) :=
  ⟨after_some (f := State.cond) (by decide), after_some (f := State.cond) (by decide),
    after_some (f := State.cond) (by decide), after_some (f := State.cond) (by decide)⟩

theorem witness_OneFlagStaysSet : OneFlag ((start 0x37FE#16).setCond 0b010#3).cond ∧
    ∃ t, step ((start 0x37FE#16).setCond 0b010#3) = .next t ∧ t.pc = 0x3001#16 :=
  ⟨.inr (.inl rfl), after_some (f := State.pc) (by decide)⟩

theorem witness_PcWritersAreTheListed : writesPc .trapHalt = false ∧
    ∃ t, exec .trapHalt (base [] []) = .next t ∧ t.pc = 0x3000#16 :=
  ⟨by decide, after_some (f := State.pc) (by decide)⟩

theorem witness_OnlyRtiChangesPrivilegeState : Instr.trapHalt ≠ .rti ∧
    ∃ t, exec .trapHalt (base [] []) = .next t ∧ t.psw = 0x8000#16 :=
  ⟨by decide, after_some (f := State.psw) (by decide)⟩

/-- HALT, the violation, and an instruction that goes on. -/
theorem witness_OnlyHaltAndViolationHalt :
    (∃ t, step (start 0xF025#16) = .next t ∧ t.running = false) ∧
    (∃ t, step (start 0x8000#16) = .next t ∧ t.running = false) ∧
    (∃ t, step (start 0xD000#16) = .next t ∧ t.running = true) ∧
    isHalt (decode (start 0xF025#16).fetch.1) = true ∧ decode (start 0x8000#16).fetch.1 = .rti ∧
    (start 0x8000#16).psw.getLsbD 15 = true :=
  ⟨after_some (f := State.running) (by decide), after_some (f := State.running) (by decide),
    after_some (f := State.running) (by decide), by decide, by decide, by decide⟩

theorem witness_ModeMattersOnlyToRti : Instr.trapGetc ≠ .rti ∧ (Instr.br 0b111#3 0#9) ≠ .rti := by decide

/-- User to Supervisor by the violation, Supervisor to User by the return. -/
theorem witness_ModeChangesOnlyByRti : (start 0x8000#16).psw.getLsbD 15 = true ∧
    (∃ t, step (start 0x8000#16) = .next t ∧ t.psw.getLsbD 15 = false) ∧
    supervisor.psw.getLsbD 15 = false ∧ ∃ t, step supervisor = .next t ∧ t.psw.getLsbD 15 = true :=
  ⟨by decide, after_some (f := fun t => t.psw.getLsbD 15) (by decide), by decide,
    after_some (f := fun t => t.psw.getLsbD 15) (by decide)⟩

theorem witness_ConsoleStreamsMoveForward :
    ∃ t, step ((base [0x41#8, 0x42#8] []).memWrite 0x3000#16 0xF020#16) = .next t ∧ t.input = [0x42#8] :=
  after_some (f := State.input) (by decide)

theorem witness_StepKeepsInvariant : (start 0x1283#16).Inv ∧
    ∃ t, step (start 0x1283#16) = .next t ∧ t.cond = 0b010#3 :=
  ⟨⟨by decide, .inl rfl, by decide, by decide⟩, after_some (f := State.cond) (by decide)⟩

/-- The last image that fits and the first that does not. -/
theorem witness_LaunchLoadsImage : (0xFFFF#16 : Word).toNat + [0xF025#16].length ≤ 0x10000 ∧
    0x10000 < (0xFFFF#16 : Word).toNat + [0xF025#16, 0xF025#16].length := by decide

theorem witness_LaunchFileIsBigEndian : ([0x30#8] : List Byte).length % 2 = 1 ∧
    ([0x30#8, 0x00#8, 0xF0#8] : List Byte).length % 2 = 1 := by decide

/-- The launched state of one HALT at 3000, and of one RTI. -/
def launchedWith (w : Word) : State := (State.boot 0x3000#16 0#15 [] []).loadImage 0x3000#16 [w]

theorem launchedWith_launched (w : Word) : Launched (launchedWith w) :=
  ⟨0x3000#16, [w], 0#15, [], [], by rw [launch, if_pos (by simp)]; rfl⟩

theorem launchedWith_userRun (w : Word) : UserRun 0x8000#16 (launchedWith w) :=
  ⟨rfl, rfl, by decide, fun _ => rfl⟩

/-- LaunchedHasInvariant as well. The step's premises, a launched state, and a run of it that goes on. -/
theorem witness_LaunchedRunsStayInUserMode : UserRun 0x8000#16 (launchedWith 0xD000#16) ∧
    (∃ t, step (launchedWith 0xD000#16) = .next t ∧ t.running = true) ∧ Launched (launchedWith 0xD000#16) ∧
    ∃ t, Host.Core.run Sys2Proof.core 1 (launchedWith 0xD000#16) = .next t ∧ t.running = true := by
  obtain ⟨t, h, hr⟩ := after_some (o := step (launchedWith 0xD000#16)) (f := State.running) (v := true) (by decide)
  exact ⟨launchedWith_userRun _, ⟨t, h, hr⟩, launchedWith_launched _, t, (Laws.run_next h).trans rfl, hr⟩

/-- Both reasons occur, at a step from `UserRun` and at the end of a run from launch. -/
theorem witness_HaltedRunsShowTheirReason :
    (UserRun 0x8000#16 (launchedWith 0xF025#16) ∧ Launched (launchedWith 0xF025#16) ∧
      ∃ t, step (launchedWith 0xF025#16) = .next t ∧
        Host.Core.run Sys2Proof.core 1 (launchedWith 0xF025#16) = .next t ∧
        (t.running, t.reason, t.pc) = (false, .normalHalt, 0x3001#16)) ∧
    (UserRun 0x8000#16 (launchedWith 0x8000#16) ∧ Launched (launchedWith 0x8000#16) ∧
      ∃ t, step (launchedWith 0x8000#16) = .next t ∧
        Host.Core.run Sys2Proof.core 1 (launchedWith 0x8000#16) = .next t ∧
        (t.running, t.reason, t.memPeek 0xFFFE#16) = (false, .privilegeViolation, 0x3001#16)) := by
  obtain ⟨t, h, hr⟩ := after_some (o := step (launchedWith 0xF025#16))
    (f := fun t => (t.running, t.reason, t.pc)) (v := (false, .normalHalt, 0x3001#16)) (by decide)
  obtain ⟨u, k, kr⟩ := after_some (o := step (launchedWith 0x8000#16))
    (f := fun t => (t.running, t.reason, t.memPeek 0xFFFE#16)) (v := (false, .privilegeViolation, 0x3001#16))
    (by decide)
  exact ⟨⟨launchedWith_userRun _, launchedWith_launched _, t, h, (Laws.run_next h).trans rfl, hr⟩,
    launchedWith_userRun _, launchedWith_launched _, u, k, (Laws.run_next k).trans rfl, kr⟩

/-- A run that stops because the core has halted, and one that waits for input in GETC and in IN. -/
theorem witness_RunsAreNeverRefused :
    Host.Core.run Sys2Proof.core 1 ((start 0x1283#16).halt .normalHalt) = .fault .halted ∧
    Host.Core.run Sys2Proof.core 1 (start 0xF020#16) = .fault (.waitingForInput []) ∧
    Host.Core.run Sys2Proof.core 1 (start 0xF023#16) = .fault (.waitingForInput ([] ++ Config.inPrompt)) :=
  ⟨Laws.run_fault (by rfl), Laws.run_fault (by rfl), Laws.run_fault (by rfl)⟩

end Sys2Proof.Tests
end

section
/-! PROOFS. Family 00_scope: operand extension (R10), which steps complete (R16, R112, R117) and how a run stops
(R201, R223). -/

namespace Sys2Proof.Machine

/-! ### Sign and zero extension (R10) -/

/-- Sign extension adds `2^16 - 2^n` exactly when the top bit of the field is set. -/
theorem sext_toNat {n : Nat} (hn : n ≤ 16) (v : BitVec n) :
    (sext v).toNat = if v.getLsbD (n - 1) then v.toNat + (0x10000 - 2 ^ n) else v.toNat := by
  rw [sext, BitVec.toNat_signExtend, BitVec.toNat_setWidth_of_le hn, BitVec.msb_eq_getLsbD_last]
  cases v.getLsbD (n - 1) <;> rfl

/-- The low `k` bits of a sign-extended `k`-bit field are the field. -/
theorem sext_lowBits {k : Nat} (hk : k ≤ 16) (v : BitVec k) : (sext v).extractLsb' 0 k = v := by
  ext i hi
  have hi16 : i < 16 := by omega
  simp [sext, hi16, BitVec.getElem_signExtend, hi]

theorem zext_toNat {n : Nat} (hn : n ≤ 16) (v : BitVec n) : (zext v).toNat = v.toNat :=
  BitVec.toNat_setWidth_of_le hn

/-! ### Decoded words are well formed (R98, R165) -/

/-- The general TRAP row is reached only past the six defined selectors. -/
theorem decodeTrap_wf (v : BitVec 8) : (decodeTrap v).wf = true := by
  unfold decodeTrap
  split
  case h_7 h₀ h₁ h₂ h₃ h₄ h₅ => simpa [Instr.wf, definedSelectors] using ⟨h₀, h₁, h₂, h₃, h₄, h₅⟩
  all_goals rfl

/-- Every word's reading is well formed: only opcode 15 can reach the one row with a condition. -/
theorem decode_wf (ir : Word) : (decode ir).wf = true := by
  unfold decode
  split
  case h_16 => exact decodeTrap_wf _
  case h_2 | h_5 | h_6 => split <;> rfl
  all_goals rfl

/-! ### Which instructions complete (R112, R117) -/

/-- A blocking read completes, or no character is left and it waits. -/
theorem readChar_next_or_blocks (s : State) (echo : Bool) :
    (∃ t, s.readChar echo = .next t) ∨
      ∃ out, s.readChar echo = .fault (.waitingForInput out) ∧ s.input = [] := by
  rcases readChar_cases s echo with ⟨hin, h⟩ | ⟨_, _, _, h⟩
  · exact .inr ⟨_, h, hin⟩
  · exact .inl ⟨_, h⟩

/-- An undefined selector does nothing (R177). -/
theorem execTrap_undefined {v : BitVec 8} (hv : (Instr.trap v).wf = true) (s : State) :
    execTrap v s = .next s := by
  rcases execTrap_cases v s with ⟨rfl, _⟩ | ⟨rfl, _⟩ | ⟨rfl, _⟩ | ⟨rfl, _⟩ | ⟨rfl, _⟩ | ⟨rfl, _⟩ | ⟨_, h⟩
  case inr.inr.inr.inr.inr.inr => exact h
  all_goals exact absurd hv (by decide)

/-- RTI completes in either mode (R190). -/
theorem execRti_next (s : State) : ∃ t, execRti s = .next t := by
  unfold execRti
  split
  · exact ⟨_, rfl⟩
  · exact ⟨_, rfl⟩

/-- Every well-formed instruction completes from every state, but for GETC and IN with no character left. -/
theorem exec_next_or_blocks {i : Instr} (hi : i.wf = true) (s : State) :
    (∃ t, exec i s = .next t) ∨
      ∃ out, exec i s = .fault (.waitingForInput out) ∧ s.input = [] ∧ (i = .trapGetc ∨ i = .trapIn) := by
  cases i with
  | trapGetc =>
    exact (readChar_next_or_blocks s false).imp id fun ⟨out, h, hin⟩ => ⟨out, h, hin, .inl rfl⟩
  | trapIn =>
    exact (readChar_next_or_blocks (s.consoleWrite Config.inPrompt) true).imp id
      fun ⟨out, h, hin⟩ => ⟨out, h, hin, .inr rfl⟩
  | trap v => exact .inl ⟨s, execTrap_undefined hi s⟩
  | rti => exact .inl (execRti_next s)
  | br | addReg | addImm | ld | st | jsr | jsrr | andReg | andImm | ldr | str | not | ldi | sti | jmp | reserved
  | lea | trapOut | trapPuts | trapPutsp | trapHalt => exact .inl ⟨_, rfl⟩

/-! ### Which steps complete (R115, R117) -/

theorem step_running {s : State} (h : s.running = true) : step s = exec (decode s.fetch.1) s.fetch.2 := if_pos h

theorem step_halted {s : State} (h : s.running = false) : step s = .fault .halted := if_neg (by simp [h])

/-- The core runs, and the step it is at is a GETC or IN that no character will ever reach (R117). -/
structure State.Waiting (s : State) : Prop where
  running : s.running = true
  input : s.fetch.2.input = []
  reads : decode s.fetch.1 = .trapGetc ∨ decode s.fetch.1 = .trapIn

/-- What the fault says of the state whose step answers it: halted (R115) or waiting for a character (R117). -/
inductive StopsWith (s : State) : Fault → Prop
  | halted (h : s.running = false) : StopsWith s .halted
  | waiting (out : List Byte) (h : s.Waiting) : StopsWith s (.waitingForInput out)

/-- A running core's step completes, or waits in GETC or IN. -/
theorem step_next_or_waits {s : State} (hr : s.running = true) :
    (∃ t, step s = .next t) ∨ ∃ out, step s = .fault (.waitingForInput out) ∧ s.Waiting := by
  rw [step_running hr]
  exact (exec_next_or_blocks (decode_wf s.fetch.1) s.fetch.2).imp id
    fun ⟨out, h, hin, hread⟩ => ⟨out, h, hr, hin, hread⟩

/-- What a step from any state can do: complete, or stop with a fault that says why. -/
theorem step_next_or_stops (s : State) : (∃ t, step s = .next t) ∨ ∃ f, step s = .fault f ∧ StopsWith s f := by
  cases hr : s.running with
  | false => exact .inr ⟨.halted, step_halted hr, .halted hr⟩
  | true => exact (step_next_or_waits hr).imp id fun ⟨out, h, hw⟩ => ⟨_, h, .waiting out hw⟩

theorem step_not_refused (s : State) (r : Refusal) : step s ≠ .refused r := by
  rcases step_next_or_stops s with ⟨t, h⟩ | ⟨f, h, -⟩ <;> simp [h]

theorem stopsWith_of_step_fault {s : State} {f : Fault} (hf : step s = .fault f) : StopsWith s f := by
  rcases step_next_or_stops s with ⟨t, h⟩ | ⟨g, h, hg⟩
  · exact nomatch h.symm.trans hf
  · cases h.symm.trans hf
    exact hg

end Sys2Proof.Machine

/-! ### How a run stops -/

namespace Sys2Proof.Laws

open Sys2Proof.Machine

section AnyCore

variable {M : Host.Core} {k : Nat} {s : M.State}

/-- A machine whose step refuses nothing refuses no run. -/
theorem anyCore_run_not_refused (hstep : ∀ s r, M.step s ≠ .refused r) (r : M.Refusal) :
    M.run k s ≠ .refused r := by
  induction k generalizing s with
  | zero => exact nofun
  | succ k ih =>
    cases hs : M.step s with
    | next u => rw [anyCore_run_next hs]; exact ih
    | fault f => rw [anyCore_run_fault hs]; exact nofun
    | refused r' => exact absurd hs (hstep s r')

/-- A run that faults passes, earlier, through a state whose step answers that fault. -/
theorem anyCore_step_fault_of_run {f : M.Fault} (h : M.run k s = .fault f) :
    ∃ j t, j < k ∧ M.run j s = .next t ∧ M.step t = .fault f := by
  induction k generalizing s with
  | zero => exact nomatch h
  | succ k ih =>
    cases hs : M.step s with
    | next u =>
      obtain ⟨j, t, hj, hrun, ht⟩ := ih ((anyCore_run_next hs).symm.trans h)
      exact ⟨j + 1, t, by omega, (anyCore_run_next hs).trans hrun, ht⟩
    | fault g =>
      cases (anyCore_run_fault hs).symm.trans h
      exact ⟨0, s, by omega, rfl, hs⟩
    | refused r => exact nomatch (anyCore_run_refused hs).symm.trans h

end AnyCore

theorem run_not_refused (k : Nat) (s : State) (r : Refusal) : Host.Core.run Sys2Proof.core k s ≠ .refused r :=
  anyCore_run_not_refused (M := Sys2Proof.core) step_not_refused r

/-- A run that faults passes, earlier, through a state that the fault is about. -/
theorem stopsWith_of_run_fault {k : Nat} {s : State} {f : Fault}
    (h : Host.Core.run Sys2Proof.core k s = .fault f) :
    ∃ (j : Nat) (t : State), j < k ∧ Host.Core.run Sys2Proof.core j s = .next t ∧ StopsWith t f := by
  obtain ⟨j, t, hj, hrun, ht⟩ := anyCore_step_fault_of_run (M := Sys2Proof.core) h
  exact ⟨j, t, hj, hrun, stopsWith_of_step_fault ht⟩

end Sys2Proof.Laws

/-! ### The statements -/

namespace Sys2Proof.Proofs

open Sys2Proof.Machine

/-- Settles O32, from the values and the low bits of `sext` and `zext` at every width. -/
theorem signExtension : Obligations.SignExtension :=
  ⟨fun _ _ hn v => sext_toNat hn v, fun _ _ hk _ => sext_lowBits hk _, fun _ hn v => zext_toNat hn v⟩

/-- Settles O42: every decoded instruction is well formed, and such an instruction completes or waits. -/
theorem onlyBlockedReadsDoNotComplete : Obligations.OnlyBlockedReadsDoNotComplete := by
  intro s hr
  exact (step_next_or_waits hr).imp id fun ⟨out, h, hw⟩ => ⟨out, h, hw.input, hw.reads⟩

/-- Settles O60: no step is refused, and a run's fault is that of an earlier state's step. -/
theorem runsAreNeverRefused : Obligations.RunsAreNeverRefused := by
  intro s k
  refine ⟨Laws.run_not_refused k s, fun f h => ?_⟩
  obtain ⟨j, t, hj, hrun, hstop⟩ := Laws.stopsWith_of_run_fault h
  refine ⟨j, t, hj, hrun, ?_⟩
  cases hstop with
  | halted hr => exact .inl ⟨rfl, hr⟩
  | waiting out hw => exact .inr ⟨out, rfl, hw.running, hw.input, hw.reads⟩

end Sys2Proof.Proofs
end

section
/-! PROOFS. Family 10_state: registers (R22, R23), flags (R28, R30), the privilege state and RTI (R31, R35, R191,
R203), running and reason (R37, R38), reset (R42 to R48), and the invariant every step keeps. All the whole-machine
statements rest on one inversion lemma, `exec_effect`: what a completing instruction can do. -/

namespace Sys2Proof

/-! ### Register fields and RTI's row (R22, R80, R190) -/

theorem Reg.ofBits_inj {b c : BitVec 3} : Reg.ofBits b = Reg.ofBits c ↔ b = c :=
  (Function.LeftInverse.injective Reg.toBits_ofBits).eq_iff

/-- The opcode is read from the bits of the mask 0xF000. -/
theorem opcodeOf_and_mask (w : Word) : opcodeOf (w &&& 0xF000#16) = opcodeOf w := by
  ext i hi
  simp only [opcodeOf, field, BitVec.getElem_extractLsb', BitVec.getLsbD_and]
  interval_cases i <;> simp

theorem decode_rti_row {w : Word} (h : w &&& 0xF000#16 = 0x8000#16) : decode w = .rti := by
  have hop : opcodeOf w = 0b1000#4 := by rw [← opcodeOf_and_mask, h]; rfl
  simp [decode, hop]

/-! ### The PSW: mode bit and the rest (R32, R34) -/

/-- Clearing the mode bit clears it. -/
theorem getLsbD_clearMode_mode (p : Word) : (p &&& 0x7FFF#16).getLsbD 15 = false := by simp

/-- Clearing the mode bit keeps the other fifteen. -/
theorem getLsbD_clearMode_low (p : Word) {k : Nat} (h : k < 15) :
    (p &&& 0x7FFF#16).getLsbD k = p.getLsbD k := by
  have hk : (0x7FFF#16).getLsbD k = true := by interval_cases k <;> rfl
  rw [BitVec.getLsbD_and, hk, Bool.and_true]

end Sys2Proof

namespace Sys2Proof.Machine

namespace State

/-! ### Device-aware reads, one and several (R54, R57) -/

theorem afterRead_kbsr (s : State) : s.afterRead kbsr = s.pollKeyboard := if_pos rfl

theorem pollKeyboard_notReady {s : State} (h : s.consolePoll = none) :
    s.pollKeyboard = s.nextPoll.memWrite kbsr 0x0000#16 := by simp [pollKeyboard, h]

theorem pollKeyboard_ready {s : State} {c : Byte} (h : s.consolePoll = some c) :
    s.pollKeyboard = ((s.nextPoll.memWrite kbsr kbReady).memWrite kbdr (c.setWidth 16)).dropInput := by
  simp [pollKeyboard, h]

/-- One device-aware read leaves only what `ReadLeaves` allows. -/
theorem afterRead_leaves (s : State) (a : Word) : ReadLeaves s a (s.afterRead a) where
  regs r _ := by simp
  pc := by simp
  cond := by simp
  privilege := ⟨by simp, by simp, by simp⟩
  run := ⟨by simp, by simp⟩
  output := by simp
  plain h := by rw [afterRead_plain h]; exact ⟨fun _ _ => rfl, rfl, rfl, rfl, rfl⟩
  polled h := by rw [show a = kbsr from h, afterRead_kbsr]; simp
  notReady h hpoll := by
    rw [show a = kbsr from h, afterRead_kbsr, pollKeyboard_notReady hpoll]
    exact ⟨memWrite_memPeek_same _ _ _, fun b hb => memWrite_memPeek_ne _ _ (by simpa [kbsr] using hb), rfl⟩
  ready h c hpoll := by
    rw [show a = kbsr from h, afterRead_kbsr, pollKeyboard_ready hpoll]
    refine ⟨?_, memWrite_memPeek_same _ _ _, fun b hb => ?_, (consolePoll_some hpoll).2⟩
    · rw [dropInput_memPeek, memWrite_memPeek_ne _ _ (by decide)]
      exact memWrite_memPeek_same _ _ _
    · obtain ⟨h₁, h₂⟩ : b ≠ kbsr ∧ b ≠ kbdr := by simpa [kbsr, kbdr] using hb
      rw [dropInput_memPeek, memWrite_memPeek_ne _ _ h₂, memWrite_memPeek_ne _ _ h₁, nextPoll_memPeek]

/-- The state after device-aware reads of the listed addresses, in order. -/
def afterReads (s : State) (as : List Word) : State := as.foldl afterRead s

/-- What one read leaves alone, several leave alone. -/
theorem afterReads_frame {α : Type} {f : State → α} (hf : ∀ s a, f (s.afterRead a) = f s) (s : State)
    (as : List Word) : f (s.afterReads as) = f s := by
  induction as generalizing s with
  | nil => rfl
  | cons a as ih => exact (ih (s.afterRead a)).trans (hf s a)

section AfterReads

variable (s : State) (as : List Word)

@[simp] theorem afterReads_pc : (s.afterReads as).pc = s.pc := afterReads_frame afterRead_pc s as
@[simp] theorem afterReads_cond : (s.afterReads as).cond = s.cond := afterReads_frame afterRead_cond s as
@[simp] theorem afterReads_psw : (s.afterReads as).psw = s.psw := afterReads_frame afterRead_psw s as
@[simp] theorem afterReads_ssp : (s.afterReads as).ssp = s.ssp := afterReads_frame afterRead_ssp s as
@[simp] theorem afterReads_usp : (s.afterReads as).usp = s.usp := afterReads_frame afterRead_usp s as
@[simp] theorem afterReads_running : (s.afterReads as).running = s.running :=
  afterReads_frame afterRead_running s as
@[simp] theorem afterReads_reason : (s.afterReads as).reason = s.reason := afterReads_frame afterRead_reason s as
@[simp] theorem afterReads_output : (s.afterReads as).output = s.output := afterReads_frame afterRead_output s as
@[simp] theorem afterReads_reg (r : Reg) : (s.afterReads as).reg r = s.reg r :=
  afterReads_frame (f := (reg · r)) (fun s a => s.afterRead_reg a r) s as

theorem afterReads_two (a b : Word) : s.afterReads [a, b] = (s.afterRead a).afterRead b := rfl

theorem afterReads_wf {s : State} (h : Memory.wf s.mem) : Memory.wf (s.afterReads as).mem := by
  induction as generalizing s with
  | nil => exact h
  | cons a as ih => exact ih (s.afterRead_wf a h)

end AfterReads

section Fetch

variable (s : State)

@[simp] theorem fetch_cond : s.fetch.2.cond = s.cond := by simp [fetch_eq]
@[simp] theorem fetch_psw : s.fetch.2.psw = s.psw := by simp [fetch_eq]
@[simp] theorem fetch_running : s.fetch.2.running = s.running := by simp [fetch_eq]
@[simp] theorem fetch_reason : s.fetch.2.reason = s.reason := by simp [fetch_eq]

theorem fetch_wf {s : State} (h : Memory.wf s.mem) : Memory.wf s.fetch.2.mem := by
  rw [fetch_eq]
  exact s.afterRead_wf s.pc h

end Fetch

@[simp] theorem consoleWrite_nil (s : State) : s.consoleWrite [] = s := by simp [consoleWrite]

/-! ### The two ends of RTI, as named updates (R191, R203) -/

section Rti

variable (s : State)

/-- The later of two writes to a register stands. -/
theorem setReg_setReg (r : Reg) (v w : Word) : (s.setReg r v).setReg r w = s.setReg r w := by cases r <;> rfl
theorem setPc_setReg (p : Word) (r : Reg) (v : Word) : (s.setPc p).setReg r v = (s.setReg r v).setPc p := rfl
theorem setPsw_setReg (p : Word) (r : Reg) (v : Word) : (s.setPsw p).setReg r v = (s.setReg r v).setPsw p := rfl

/-- The return: two reads, then PC and PSW take the words read and R6 takes `usp`. -/
theorem returnFromException_updates :
    s.returnFromException =
      (((s.afterReads [s.reg .r6, s.reg .r6 + 1#16]).setReg .r6 s.usp).setPc
        ((s.afterRead (s.reg .r6)).memPeek (s.reg .r6))).setPsw
          ((s.afterReads [s.reg .r6, s.reg .r6 + 1#16]).memPeek (s.reg .r6 + 1#16)) := by
  rw [returnFromException_eq]
  simp only [afterRead_setPc, afterRead_setReg, setPc_setReg, setPsw_setReg, setReg_setReg, setPc_memPeek,
    setReg_memPeek, afterReads_two]

theorem returnFromException_pc :
    s.returnFromException.pc = (s.afterRead (s.reg .r6)).memPeek (s.reg .r6) := by
  rw [returnFromException_updates, setPsw_pc, setPc_pc]
theorem returnFromException_psw :
    s.returnFromException.psw =
      ((s.afterRead (s.reg .r6)).afterRead (s.reg .r6 + 1#16)).memPeek (s.reg .r6 + 1#16) := by
  rw [returnFromException_updates, setPsw_psw]
  rfl
@[simp] theorem returnFromException_r6 : s.returnFromException.reg .r6 = s.usp := by
  simp [returnFromException_updates]
@[simp] theorem returnFromException_cond : s.returnFromException.cond = s.cond := by
  simp [returnFromException_updates]
@[simp] theorem returnFromException_ssp : s.returnFromException.ssp = s.ssp := by
  simp [returnFromException_updates]
@[simp] theorem returnFromException_usp : s.returnFromException.usp = s.usp := by
  simp [returnFromException_updates]
@[simp] theorem returnFromException_running : s.returnFromException.running = s.running := by
  simp [returnFromException_updates]
@[simp] theorem returnFromException_reason : s.returnFromException.reason = s.reason := by
  simp [returnFromException_updates]

theorem returnFromException_reg_ne {r : Reg} (h : r ≠ .r6) : s.returnFromException.reg r = s.reg r := by
  simp [returnFromException_updates, setReg_reg_ne, h]

/-- Memory is what the two reads leave. -/
theorem returnFromException_memory :
    SameMemoryBut [] ((s.afterRead (s.reg .r6)).afterRead (s.reg .r6 + 1#16)) s.returnFromException := by
  rw [returnFromException_updates]
  exact fun _ _ => rfl

/-- The console streams are what the two reads leave. -/
theorem returnFromException_host :
    SameHost ((s.afterRead (s.reg .r6)).afterRead (s.reg .r6 + 1#16)) s.returnFromException := by
  rw [returnFromException_updates]
  exact ⟨rfl, rfl, rfl, rfl⟩

theorem returnFromException_wf {s : State} (h : Memory.wf s.mem) : Memory.wf s.returnFromException.mem := by
  rw [returnFromException_updates]
  exact afterReads_wf _ h

/-- The violation: the PSW loses its mode bit and is stored at `ssp - 1`, the PC at `ssp - 2`. -/
theorem raisePrivilegeViolation_updates :
    s.raisePrivilegeViolation =
      (((((s.setPsw (s.psw &&& 0x7FFF#16)).setReg .r6 (s.ssp - 2#16)).memWrite (s.ssp - 1#16)
        (s.psw &&& 0x7FFF#16)).memWrite (s.ssp - 2#16) s.pc).setPc violationVector).halt .privilegeViolation := by
  have h2 : s.ssp - 2#16 = s.ssp - 1#16 - 1#16 := by rw [BitVec.sub_sub]; rfl
  rw [raisePrivilegeViolation_eq, h2]
  rfl

@[simp] theorem raisePrivilegeViolation_pc : s.raisePrivilegeViolation.pc = violationVector := rfl
@[simp] theorem raisePrivilegeViolation_cond : s.raisePrivilegeViolation.cond = s.cond := rfl
@[simp] theorem raisePrivilegeViolation_psw : s.raisePrivilegeViolation.psw = s.psw &&& 0x7FFF#16 := rfl
@[simp] theorem raisePrivilegeViolation_ssp : s.raisePrivilegeViolation.ssp = s.ssp := rfl
@[simp] theorem raisePrivilegeViolation_usp : s.raisePrivilegeViolation.usp = s.usp := rfl
@[simp] theorem raisePrivilegeViolation_running : s.raisePrivilegeViolation.running = false := rfl
@[simp] theorem raisePrivilegeViolation_reason : s.raisePrivilegeViolation.reason = .privilegeViolation := rfl

@[simp] theorem raisePrivilegeViolation_r6 : s.raisePrivilegeViolation.reg .r6 = s.ssp - 2#16 := by
  simp [raisePrivilegeViolation_updates]

theorem raisePrivilegeViolation_reg_ne {r : Reg} (h : r ≠ .r6) : s.raisePrivilegeViolation.reg r = s.reg r := by
  simp [raisePrivilegeViolation_updates, setReg_reg_ne, h]

theorem raisePrivilegeViolation_savedPsw :
    s.raisePrivilegeViolation.memPeek (s.ssp - 1#16) = s.psw &&& 0x7FFF#16 := by
  have hne : s.ssp - 1#16 ≠ s.ssp - 2#16 := by bv_omega
  rw [raisePrivilegeViolation_updates, halt_memPeek, setPc_memPeek, memWrite_memPeek_ne _ _ hne,
    memWrite_memPeek_same]

theorem raisePrivilegeViolation_savedPc : s.raisePrivilegeViolation.memPeek (s.ssp - 2#16) = s.pc := by
  rw [raisePrivilegeViolation_updates, halt_memPeek, setPc_memPeek, memWrite_memPeek_same]

/-- The two pushes are the only stores. -/
theorem raisePrivilegeViolation_memory :
    SameMemoryBut [s.ssp - 1#16, s.ssp - 2#16] s s.raisePrivilegeViolation := by
  intro a ha
  obtain ⟨h₁, h₂⟩ : a ≠ s.ssp - 1#16 ∧ a ≠ s.ssp - 2#16 := by simpa using ha
  rw [raisePrivilegeViolation_updates, halt_memPeek, setPc_memPeek, memWrite_memPeek_ne _ _ h₂,
    memWrite_memPeek_ne _ _ h₁]
  rfl

theorem raisePrivilegeViolation_wf {s : State} (h : Memory.wf s.mem) :
    Memory.wf s.raisePrivilegeViolation.mem := by
  rw [raisePrivilegeViolation_updates]
  exact memWrite_wf (memWrite_wf (by exact h) _ _) _ _

end Rti

/-! ### Reset (R42, R45) -/

section Boot

variable (origin : Word) (pswLow : BitVec 15) (input : List Byte) (pollAnswers : List Bool)

theorem boot_reg (r : Reg) : (boot origin pswLow input pollAnswers).reg r = 0x0000#16 := by cases r <;> rfl

/-- Reset is in User mode. -/
theorem boot_psw_mode : (boot origin pswLow input pollAnswers).psw.getLsbD 15 = true := by
  simp [boot]

/-- Below the mode bit stands PSW_RESET_LOW. -/
theorem boot_psw_low : (boot origin pswLow input pollAnswers).psw.extractLsb' 0 15 = pswLow := by
  ext k hk
  have hk16 : k < 16 := by omega
  have h0 : (0x8000#16)[k] = false := by interval_cases k <;> simp
  simp [boot, h0, hk16, hk]

end Boot

end State

/-! ### What a completing instruction can do (R23, R26, R28, R37, R57) -/

/-- What the model's tables say of an instruction other than RTI: its flag-setting destination, the registers it
may write, whether it writes `pc`, and whether it is the HALT service. -/
structure Profile (i : Instr) (dest : Option Reg) (regs : List Reg) (pc halts : Bool) : Prop where
  flagDest : flagDest i = dest
  regs : regsWritten i = regs
  pc : writesPc i = pc
  isHalt : isHalt i = halts
  ne_rti : i ≠ .rti

/-- What `i`, run in `s` and completing, can leave: first its device-aware reads, then one update of each kind. -/
inductive Effect (i : Instr) (s : State) : State → Prop
  /-- The seven flag-setting instructions. -/
  | result (dr : Reg) (v : Word) (hi : Profile i (some dr) [dr] false false) :
      Effect i s ((s.afterReads (readAddrs i s)).writeDest dr v)
  /-- ST, STI, STR. -/
  | store (sr : Reg) (a : Word) (hi : Profile i none [] false false) (hr : storedReg i = some sr)
      (ha : storeAddrs i s = [a]) :
      Effect i s ((s.afterReads (readAddrs i s)).memWrite a ((s.afterReads (readAddrs i s)).reg sr))
  /-- BR, JMP. -/
  | jump (v : Word) (hi : Profile i none [] true false) : Effect i s (s.setPc v)
  /-- JSR, JSRR. -/
  | link (v : Word) (hi : Profile i none [.r7] true false) : Effect i s ((s.setReg .r7 s.pc).setPc v)
  /-- RTI in Supervisor mode. -/
  | rtiReturn (hi : i = .rti) (hm : s.userMode = false) : Effect i s s.returnFromException
  /-- RTI in User mode. -/
  | rtiViolation (hi : i = .rti) (hm : s.userMode = true) : Effect i s s.raisePrivilegeViolation
  /-- GETC, IN. -/
  | readChar (before after : List Byte) (c : Byte) (rest : List Byte) (hi : Profile i none [.r0] false false)
      (hin : s.input = c :: rest) :
      Effect i s (((s.consoleWrite before).dropInput.setReg .r0 (zext c)).consoleWrite after)
  /-- OUT, PUTS, PUTSP, and with nothing to write the reserved opcode and the undefined selectors. -/
  | write (bs : List Byte) (hi : Profile i none [] false false) : Effect i s (s.consoleWrite bs)
  /-- HALT. -/
  | halt (hi : Profile i none [] false true) : Effect i s ((s.consoleWrite Config.haltNotice).halt .normalHalt)

/-- A blocking read that completes has taken a character, whichever service asked for it. -/
theorem readChar_effect {i : Instr} {s t : State} {before : List Byte} {echo : Bool}
    (hi : Profile i none [.r0] false false) (h : (s.consoleWrite before).readChar echo = .next t) :
    Effect i s t := by
  obtain ⟨-, e⟩ | ⟨c, rest, hin, e⟩ := readChar_cases (s.consoleWrite before) echo
  · exact nomatch e.symm.trans h
  · cases e.symm.trans h
    exact .readChar before _ c rest hi hin

theorem serviceGetc_effect {i : Instr} {s t : State} (hi : Profile i none [.r0] false false)
    (h : s.serviceGetc = .next t) : Effect i s t :=
  readChar_effect (before := []) (echo := false) hi (by rw [State.consoleWrite_nil]; exact h)

theorem same_effect {i : Instr} (s : State) (hi : Profile i none [] false false) : Effect i s s := by
  simpa using Effect.write (s := s) [] hi

theorem exec_rti_user {s : State} (h : s.userMode = true) : exec .rti s = .next s.raisePrivilegeViolation :=
  if_pos h

theorem exec_rti_supervisor {s : State} (h : s.userMode = false) : exec .rti s = .next s.returnFromException :=
  if_neg (by simp [h])

theorem exec_rti_effect {s t : State} (h : exec .rti s = .next t) : Effect .rti s t := by
  cases hm : s.userMode with
  | true => cases (exec_rti_user hm).symm.trans h; exact .rtiViolation rfl hm
  | false => cases (exec_rti_supervisor hm).symm.trans h; exact .rtiReturn rfl hm

/-- The general TRAP row does what the service it selects does, or nothing (R165, R177). -/
theorem execTrap_effect {v : BitVec 8} {s t : State} (h : execTrap v s = .next t) : Effect (.trap v) s t := by
  obtain ⟨rfl, e⟩ | ⟨rfl, e⟩ | ⟨rfl, e⟩ | ⟨rfl, e⟩ | ⟨rfl, e⟩ | ⟨rfl, e⟩ | ⟨hv, e⟩ := execTrap_cases v s
  · exact serviceGetc_effect ⟨rfl, rfl, rfl, rfl, nofun⟩ (e.symm.trans h)
  · cases e.symm.trans h; exact .write _ ⟨rfl, rfl, rfl, rfl, nofun⟩
  · cases e.symm.trans h; exact .write _ ⟨rfl, rfl, rfl, rfl, nofun⟩
  · exact readChar_effect ⟨rfl, rfl, rfl, rfl, nofun⟩ (e.symm.trans h)
  · cases e.symm.trans h; exact .write _ ⟨rfl, rfl, rfl, rfl, nofun⟩
  · cases e.symm.trans h; exact .halt ⟨rfl, rfl, rfl, rfl, nofun⟩
  · cases e.symm.trans h
    simp only [definedSelectors, List.mem_cons, not_or] at hv
    obtain ⟨hgetc, -, -, hin, -, hhalt, -⟩ := hv
    exact same_effect s ⟨rfl, by simp [regsWritten, hgetc, hin], rfl, by simp [isHalt, hhalt], nofun⟩

/-- What an instruction that completes has done. -/
theorem exec_effect {i : Instr} {s t : State} (h : exec i s = .next t) : Effect i s t := by
  cases i with
  | addReg | addImm | andReg | andImm | not | ld | ldr | ldi | lea =>
    cases h; exact .result _ _ ⟨rfl, rfl, rfl, rfl, nofun⟩
  | st | sti | str => cases h; exact .store _ _ ⟨rfl, rfl, rfl, rfl, nofun⟩ rfl rfl
  | br nzp off9 =>
    cases h
    by_cases hb : branchTaken nzp s.cond = true
    · rw [if_pos hb]; exact .jump _ ⟨rfl, rfl, rfl, rfl, nofun⟩
    · rw [if_neg hb]; exact .jump s.pc ⟨rfl, rfl, rfl, rfl, nofun⟩
  | jmp => cases h; exact .jump _ ⟨rfl, rfl, rfl, rfl, nofun⟩
  | jsr | jsrr => cases h; exact .link _ ⟨rfl, rfl, rfl, rfl, nofun⟩
  | rti => exact exec_rti_effect h
  | reserved => cases h; exact same_effect s ⟨rfl, rfl, rfl, rfl, nofun⟩
  | trapGetc => exact serviceGetc_effect ⟨rfl, rfl, rfl, rfl, nofun⟩ h
  | trapIn => exact readChar_effect ⟨rfl, rfl, rfl, rfl, nofun⟩ h
  | trapOut | trapPuts | trapPutsp => cases h; exact .write _ ⟨rfl, rfl, rfl, rfl, nofun⟩
  | trapHalt => cases h; exact .halt ⟨rfl, rfl, rfl, rfl, nofun⟩
  | trap v => exact execTrap_effect h

/-! ### What every completing instruction keeps -/

/-- R28: an instruction with a destination leaves the flags at its sign. -/
theorem exec_flags_follow {i : Instr} {dr : Reg} {s t : State} (h : exec i s = .next t)
    (hd : flagDest i = some dr) : FlagsFollow (t.reg dr) t.cond := by
  cases exec_effect h with
  | result d v hi =>
    cases hi.flagDest.symm.trans hd
    have hw := (s.afterReads (readAddrs i s)).writeDest_result dr v
    rw [hw.result]
    exact hw.flags
  | store sr a hi | jump v hi | link v hi | readChar before after c rest hi | write bs hi | halt hi =>
    exact nomatch hi.flagDest.symm.trans hd
  | rtiReturn hi | rtiViolation hi => subst hi; exact nomatch hd

/-- R28: an instruction without one leaves the flags alone. -/
theorem exec_cond {i : Instr} {s t : State} (h : exec i s = .next t) (hd : flagDest i = none) :
    t.cond = s.cond := by
  cases exec_effect h with
  | result dr v hi => exact nomatch hi.flagDest.symm.trans hd
  | store | rtiReturn => simp
  | jump | link | readChar | write | halt | rtiViolation => rfl

/-- R30: an instruction leaves exactly one flag set, or the flags alone. -/
theorem exec_oneFlag_or_same {i : Instr} {s t : State} (h : exec i s = .next t) :
    OneFlag t.cond ∨ t.cond = s.cond := by
  cases hd : flagDest i with
  | some dr => exact .inl (exec_flags_follow h hd).oneFlag
  | none => exact .inr (exec_cond h hd)

/-- R23: the registers outside the instruction's list keep their words. -/
theorem exec_regs {i : Instr} {s t : State} (h : exec i s = .next t) : SameRegsBut (regsWritten i) s t := by
  intro r hr
  cases exec_effect h with
  | result dr v hi =>
    rw [((s.afterReads (readAddrs i s)).writeDest_result dr v).regs r (hi.regs ▸ hr), State.afterReads_reg]
  | store sr a hi => simp
  | jump v hi | write bs hi | halt hi => rfl
  | link v hi => exact State.setReg_reg_ne s _ (by simpa [hi.regs] using hr)
  | readChar before after c rest hi => exact State.setReg_reg_ne s _ (by simpa [hi.regs] using hr)
  | rtiReturn hi => exact s.returnFromException_reg_ne (by simpa [hi, regsWritten] using hr)
  | rtiViolation hi => exact s.raisePrivilegeViolation_reg_ne (by simpa [hi, regsWritten] using hr)

/-- R31, R35: `ssp` and `usp` stay, and `psw` stays under every instruction but RTI. -/
theorem exec_privilege {i : Instr} {s t : State} (h : exec i s = .next t) :
    t.ssp = s.ssp ∧ t.usp = s.usp ∧ (i ≠ .rti → t.psw = s.psw) := by
  cases exec_effect h with
  | result | store => simp [State.writeDest_eq]
  | jump | link | readChar | write | halt => exact ⟨rfl, rfl, fun _ => rfl⟩
  | rtiReturn hi | rtiViolation hi => simp [hi]

/-- How a completing instruction leaves the running flag and the reason (R37, R38). -/
inductive RunEffect (i : Instr) (s t : State) : Prop
  | halted (hi : isHalt i = true) (running : t.running = false) (reason : t.reason = .normalHalt)
  | violated (hi : i = .rti) (hm : s.userMode = true) (running : t.running = false)
      (reason : t.reason = .privilegeViolation)
  | kept (hi : isHalt i = false) (hm : i = .rti → s.userMode = false) (run : SameRun s t)

theorem exec_run {i : Instr} {s t : State} (h : exec i s = .next t) : RunEffect i s t := by
  cases exec_effect h with
  | halt hi => exact .halted hi.isHalt rfl rfl
  | rtiViolation hi hm => exact .violated hi hm rfl rfl
  | rtiReturn hi hm => exact .kept (by rw [hi]; rfl) (fun _ => hm) ⟨by simp, by simp⟩
  | result dr v hi | store sr a hi =>
    exact .kept hi.isHalt (absurd · hi.ne_rti) ⟨by simp [State.writeDest_eq], by simp [State.writeDest_eq]⟩
  | jump v hi | link v hi | readChar before after c rest hi | write bs hi =>
    exact .kept hi.isHalt (absurd · hi.ne_rti) ⟨rfl, rfl⟩

/-- R50: memory stays in canonical form. -/
theorem exec_wf {i : Instr} {s t : State} (hs : Memory.wf s.mem) (h : exec i s = .next t) :
    Memory.wf t.mem := by
  cases exec_effect h with
  | result => exact State.afterReads_wf _ hs
  | store => exact State.memWrite_wf (State.afterReads_wf _ hs) _ _
  | jump | link | readChar | write | halt => exact hs
  | rtiReturn => exact State.returnFromException_wf hs
  | rtiViolation => exact State.raisePrivilegeViolation_wf hs

/-! ### The invariant (R30, R38, R50) -/

/-- Reset leaves the invariant, whatever ORIGIN, PSW_RESET_LOW and the host are (R42 to R48). -/
theorem boot_inv (origin : Word) (pswLow : BitVec 15) (input : List Byte) (pollAnswers : List Bool) :
    (State.boot origin pswLow input pollAnswers).Inv where
  memory := Memory.nil_wf
  flags := .inl rfl
  running_iff := by simp [State.boot]
  recognized := by simp [State.boot]

theorem fetch_inv {s : State} (hs : s.Inv) : s.fetch.2.Inv where
  memory := State.fetch_wf hs.memory
  flags := by simpa using hs.flags
  running_iff := by simpa using hs.running_iff
  recognized := by simpa using hs.recognized

theorem exec_inv {i : Instr} {s t : State} (hs : s.Inv) (h : exec i s = .next t) : t.Inv where
  memory := exec_wf hs.memory h
  flags := (exec_oneFlag_or_same h).elim .inr fun e => e ▸ hs.flags
  running_iff := by
    cases exec_run h with
    | halted _ hr hreason | violated _ _ hr hreason => simp [hr, hreason]
    | kept _ _ hrun => rw [hrun.running, hrun.reason]; exact hs.running_iff
  recognized := by
    cases exec_run h with
    | halted _ _ hreason | violated _ _ _ hreason => simp [hreason]
    | kept _ _ hrun => rw [hrun.reason]; exact hs.recognized

end Sys2Proof.Machine

/-! ### The statements -/

namespace Sys2Proof.Proofs

open Sys2Proof.Machine

/-- Settles O52: fetch and execution each keep the invariant. -/
theorem stepKeepsInvariant : Obligations.StepKeepsInvariant :=
  fun _ _ hs h => exec_inv (fetch_inv hs) (step_next h).2

/-- Settles O43: with a destination the flags follow it, without one they stay. -/
theorem onlySevenInstructionsSetFlags : Obligations.OnlySevenInstructionsSetFlags := by
  intro i s t h
  cases hd : flagDest i with
  | some dr => exact exec_flags_follow h hd
  | none => exact exec_cond h hd

/-- Settles O44: the fetch leaves the flags alone, and the instruction does too or leaves one set. -/
theorem oneFlagStaysSet : Obligations.OneFlagStaysSet := by
  intro s t hs h
  obtain hone | hsame := exec_oneFlag_or_same (step_next h).2
  · exact hone
  · rw [hsame, State.fetch_cond]
    exact hs

/-- Settles O45, over what a completing instruction can do. -/
theorem registerWritersAreTheListed : Obligations.RegisterWritersAreTheListed :=
  fun _ _ _ h => exec_regs h

/-- Settles O47, over what a completing instruction can do. -/
theorem onlyRtiChangesPrivilegeState : Obligations.OnlyRtiChangesPrivilegeState :=
  fun _ _ _ h => exec_privilege h

/-- Settles O48: the fetch leaves mode and running flag alone, and the instruction halts, violates or keeps. -/
theorem onlyHaltAndViolationHalt : Obligations.OnlyHaltAndViolationHalt := by
  intro s t h
  obtain ⟨hrunning, he⟩ := step_next h
  have hmode : s.fetch.2.userMode = s.psw.getLsbD 15 := by rw [State.userMode, State.fetch_psw]
  cases exec_run he with
  | halted hi hr hreason =>
    have hne : decode s.fetch.1 ≠ .rti := fun hrti => by simp [hrti, isHalt] at hi
    exact ⟨by simp [hr, hi], fun _ => hreason, fun hrti => absurd hrti hne⟩
  | violated hi hm hr hreason =>
    rw [hmode] at hm
    exact ⟨by simp [hr, hi, hm], fun hhalt => by simp [hi, isHalt] at hhalt, fun _ _ => hreason⟩
  | kept hi hm hrun =>
    rw [hmode] at hm
    have hr : t.running = true := by rw [hrun.running, State.fetch_running, hrunning]
    exact ⟨by simpa [hr, hi] using hm, by simp [hi], fun hrti huser => nomatch (hm hrti).symm.trans huser⟩

/-- Settles O25: the two reads of the return are device-aware reads of R6's word and the next, in that order. -/
theorem rtiReturnsInSupervisorMode : Obligations.RtiReturnsInSupervisorMode := by
  refine ⟨fun w h => decode_rti_row h, fun s hs => ?_⟩
  exact ⟨_, _, _, s.afterRead_leaves _, State.afterRead_leaves _ _, exec_rti_supervisor hs,
    s.returnFromException_pc, s.returnFromException_psw, s.returnFromException_r6,
    fun r hr => s.returnFromException_reg_ne (by simpa using hr), s.returnFromException_cond,
    s.returnFromException_ssp, s.returnFromException_usp,
    ⟨s.returnFromException_running, s.returnFromException_reason⟩,
    s.returnFromException_memory, s.returnFromException_host⟩

/-- Settles O26, field by field of the violation. -/
theorem rtiViolatesPrivilegeInUserMode : Obligations.RtiViolatesPrivilegeInUserMode := by
  intro s hs
  exact ⟨_, exec_rti_user hs, getLsbD_clearMode_mode s.psw, fun k hk => getLsbD_clearMode_low s.psw hk,
    s.raisePrivilegeViolation_r6, s.raisePrivilegeViolation_savedPsw, s.raisePrivilegeViolation_savedPc,
    rfl, rfl, rfl, rfl, rfl, rfl, fun r hr => s.raisePrivilegeViolation_reg_ne (by simpa using hr),
    s.raisePrivilegeViolation_memory, rfl, rfl, rfl, rfl⟩

/-- Settles O31: the eight fields name distinct registers, and a write is read back from its own. -/
theorem registerFieldsNameRegisters : Obligations.RegisterFieldsNameRegisters := by
  intro s v
  refine ⟨rfl, rfl, rfl, rfl, rfl, rfl, rfl, rfl, fun b c => ?_, fun _ _ => rfl, fun _ => ⟨rfl, rfl⟩⟩
  simp only [State.setReg_reg, Reg.ofBits_inj]

/-- Settles O33: `setcc` writes `flagsOf` into `cond`, which is the sign by definition. -/
theorem setccFollowsSign : Obligations.SetccFollowsSign := by
  intro s v
  rw [State.setcc_eq, State.setCond, flagsOf]

/-- Settles O53: reset leaves the invariant for every ORIGIN, PSW_RESET_LOW and host, so for those of `State.reset`. -/
theorem resetHasInvariant : Obligations.ResetHasInvariant := boot_inv _ _ _ _

/-- Settles O54: PSW is the mode bit above PSW_RESET_LOW, and nothing else needs a computation. -/
theorem resetLeaves : Obligations.ResetLeaves := by
  intro origin pswLow input pollAnswers
  exact ⟨State.boot_reg _ _ _ _, rfl, rfl, State.boot_psw_mode _ _ _ _, State.boot_psw_low _ _ _ _,
    rfl, rfl, rfl, rfl, fun _ => rfl⟩

end Sys2Proof.Proofs
end

section
/-! PROOFS. Family 20_memory: the canonical form of memory (R50), `MemWrite` (R55), and a store seen by the next
fetch (R75). -/

namespace Sys2Proof.Machine

/-! ### Memory in canonical form (R47, R50) -/

namespace Memory

/-- In a rising memory a listed pair is what its address reads as: no earlier pair has that address. -/
theorem load_of_mem {m : Memory} (h : m.Pairwise fun x y => x.1 < y.1) {c : Nat × Word} (hc : c ∈ m) :
    m.load c.1 = c.2 := by
  induction m with
  | nil => exact nomatch hc
  | cons d rest ih =>
    obtain ⟨hd, hrest⟩ := List.pairwise_cons.mp h
    obtain rfl | hc := List.mem_cons.mp hc
    · exact if_pos rfl
    · rw [load, if_neg (hd c hc).ne, ih hrest hc]

/-- An address that does not read as unlisted is listed, with the word it reads as. -/
theorem mem_of_load_ne_unlisted {m : Memory} {a : Nat} (h : m.load a ≠ unlisted) : (a, m.load a) ∈ m := by
  induction m with
  | nil => exact absurd rfl h
  | cons d rest ih =>
    by_cases hd : d.1 = a
    · rw [load, if_pos hd, ← hd]
      exact List.mem_cons_self
    · rw [load, if_neg hd] at h ⊢
      exact List.mem_cons_of_mem _ (ih h)

/-- The pairs of a canonical memory are its addresses that do not read as unlisted, each with its word. -/
theorem mem_iff_load {m : Memory} (h : m.wf) (c : Nat × Word) :
    c ∈ m ↔ c.1 < 65536 ∧ m.load c.1 = c.2 ∧ c.2 ≠ unlisted := by
  obtain ⟨hrising, hlisted⟩ := h
  constructor
  · intro hc
    exact ⟨(hlisted c hc).1, load_of_mem hrising hc, (hlisted c hc).2⟩
  · rintro ⟨-, hload, hne⟩
    have hmem := mem_of_load_ne_unlisted (hload ▸ hne)
    rwa [hload] at hmem

/-- Two memories whose pairs rise are equal once they list the same pairs. -/
theorem eq_of_rising_of_mem_iff {m n : Memory} (hm : m.Pairwise fun x y => x.1 < y.1)
    (hn : n.Pairwise fun x y => x.1 < y.1) (h : ∀ c, c ∈ m ↔ c ∈ n) : m = n :=
  have : Std.Antisymm fun x y : Nat × Word => x.1 < y.1 := ⟨fun _ _ h h' => absurd h h'.asymm⟩
  have : Std.Irrefl fun x y : Nat × Word => x.1 < y.1 := ⟨fun _ => lt_irrefl _⟩
  hm.eq_of_mem_iff hn h

/-- Canonical memories that read alike inside the address space are the same data. -/
theorem eq_of_load_eq {m n : Memory} (hm : m.wf) (hn : n.wf) (h : ∀ a < 65536, m.load a = n.load a) : m = n := by
  refine eq_of_rising_of_mem_iff hm.1 hn.1 fun c => ?_
  rw [mem_iff_load hm, mem_iff_load hn]
  exact and_congr_right fun hc => by rw [h c.1 hc]

end Memory

namespace State

/-! ### Stores (R55) -/

/-- A store writes its one word and nothing else, whatever the address. -/
theorem memWrite_stored (s : State) (a v : Word) : WordStored s (s.memWrite a v) a v where
  stored := s.memWrite_memPeek_same a v
  memory _ hb := s.memWrite_memPeek_ne v (by simpa using hb)
  regs _ _ := rfl
  cond := rfl
  pc := rfl
  privilege := ⟨rfl, rfl, rfl⟩
  run := ⟨rfl, rfl⟩
  host := ⟨rfl, rfl, rfl, rfl⟩

/-! ### Fetch away from the keyboard (R54, R110) -/

/-- A fetch that does not poll takes the stored word and only moves the PC. -/
theorem fetch_plain {s : State} (h : s.pc ≠ kbsr) : s.fetch = (s.memPeek s.pc, s.setPc (s.pc + 1#16)) := by
  rw [fetch_eq, afterRead_plain h]

end State

/-! ### ST, STI, STR (R135, R136, R137) -/

/-- Each of the three stores, after its device-aware reads, writes the word of its register to its one address. -/
theorem exec_stores {i : Instr} {sr : Reg} {s t : State} (hr : storedReg i = some sr) (h : exec i s = .next t) :
    ∃ a, storeAddrs i s = [a] ∧
      t = (s.afterReads (readAddrs i s)).memWrite a ((s.afterReads (readAddrs i s)).reg sr) := by
  cases i with
  | st | sti | str => cases hr; cases h; exact ⟨_, rfl, rfl⟩
  | br | addReg | addImm | ld | jsr | jsrr | andReg | andImm | ldr | rti | not | ldi | jmp | reserved | lea
  | trapGetc | trapOut | trapPuts | trapIn | trapPutsp | trapHalt | trap => exact nomatch hr

/-- A running core whose fetch does not poll executes the word stored at its PC. -/
theorem step_plain {s : State} (hr : s.running = true) (hpc : s.pc ≠ State.kbsr) :
    step s = exec (decode (s.memPeek s.pc)) (s.setPc (s.pc + 1#16)) := by
  rw [step_running hr, State.fetch_plain hpc]

end Sys2Proof.Machine

/-! ### The statements -/

namespace Sys2Proof.Proofs

open Sys2Proof.Machine

/-- Settles O37: the pairs of a canonical memory are determined by what it reads as, and their order by rising. -/
theorem canonicalMemoryIsExtensional : Obligations.CanonicalMemoryIsExtensional :=
  fun _ _ hm hn h => Memory.eq_of_load_eq hm hn h

/-- Settles O35, by read after write: no address is special to a store. -/
theorem memWriteIsPlainStore : Obligations.MemWriteIsPlainStore := State.memWrite_stored

/-- Settles O41: the store leaves PC and running flag alone, so the next fetch reads the word just stored. -/
theorem storeIsSeenByNextFetch : Obligations.StoreIsSeenByNextFetch := by
  intro i sr s t hi hrun hpc h ha
  obtain ⟨a, haddr, rfl⟩ := exec_stores hi h
  obtain rfl : s.pc = a := by simpa [haddr] using ha
  rw [step_plain (by simpa using hrun) (by simpa [State.kbsr] using hpc), State.memWrite_pc, State.afterReads_pc,
    State.memWrite_memPeek_same, State.afterReads_reg]
  rfl

end Sys2Proof.Proofs
end

section
/-! PROOFS. Family 30_encoding: what decoding reads of an encoded word (R82 to R92, R98), that it reads no ignored bit
(R100), and that encoding what was decoded gives the word back up to ignored bits. -/

namespace Sys2Proof

/-! ### Words that agree outside a mask (R100) -/

/-- Words that agree outside a mask have the same field wherever the mask has no bit. -/
theorem field_eq_of_or_eq {v w m : Word} {lo k : Nat} (h : v ||| m = w ||| m) (hm : field m lo k = 0#k) :
    field v lo k = field w lo k := by
  have hfield (x : Word) : field (x ||| m) lo k = field x lo k := by
    rw [field, BitVec.extractLsb'_or, ← field, ← field, hm, BitVec.or_zero]
  rw [← hfield v, h, hfield w]

/-- Words that agree outside a mask have the same bit wherever the mask has none. -/
theorem getLsbD_eq_of_or_eq {v w m : Word} {k : Nat} (h : v ||| m = w ||| m) (hm : m.getLsbD k = false) :
    v.getLsbD k = w.getLsbD k := by
  simpa [hm] using congrArg (·.getLsbD k) h

/-- Outside the empty mask, words agree only if they are equal. -/
theorem eq_of_or_zero {v w : Word} (h : v ||| 0x0000#16 = w ||| 0x0000#16) : v = w := by
  rwa [BitVec.or_zero, BitVec.or_zero] at h

/-! ### What decoding reads of an encoded word (R81, R83 to R92) -/

section EncodeOp

variable (op : BitVec 4) (dr sr1 : Reg)

@[simp] theorem opcodeOf_encodeOp (low : BitVec 6) : opcodeOf (encodeOp op dr sr1 low) = op :=
  field_opcode_encodeOp op dr sr1 low

@[simp] theorem regHigh_encodeOp (low : BitVec 6) : regHigh (encodeOp op dr sr1 low) = dr := by simp [regHigh]

@[simp] theorem regMid_encodeOp (low : BitVec 6) : regMid (encodeOp op dr sr1 low) = sr1 := by simp [regMid]

@[simp] theorem field_low_encodeOp (low : BitVec 6) : field (encodeOp op dr sr1 low) 0 6 = low :=
  BitVec.extractLsb'_append_eq_right

/-- The mode bit of ADD and AND (R83, R84). -/
@[simp] theorem mode_encodeOp (mode : BitVec 1) (rest : BitVec 5) :
    (encodeOp op dr sr1 (mode ++ rest))[5] = mode[0] := by
  rw [← BitVec.getLsbD_eq_getElem, getLsbD_encodeOp op dr sr1 _ (by decide), BitVec.getLsbD_append]
  rfl

@[simp] theorem field_imm5_encodeOp (mode : BitVec 1) (imm5 : BitVec 5) :
    field (encodeOp op dr sr1 (mode ++ imm5)) 0 5 = imm5 :=
  (BitVec.extractLsb'_append_eq_of_add_le (by decide)).trans BitVec.extractLsb'_append_eq_right

@[simp] theorem regLow_encodeOp (mode : BitVec 1) (rest : BitVec 5) :
    regLow (encodeOp op dr sr1 (mode ++ rest)) = Reg.ofBits (rest.extractLsb' 0 3) :=
  congrArg Reg.ofBits ((BitVec.extractLsb'_append_eq_of_add_le (by decide)).trans
    (BitVec.extractLsb'_append_eq_of_add_le (by decide)))

/-- SR2 lies below the two zero bits of the register form. -/
@[simp] theorem extractLsb'_zeros_append (zeros : BitVec 2) (b : BitVec 3) : (zeros ++ b).extractLsb' 0 3 = b :=
  BitVec.extractLsb'_append_eq_right

/-- Bit 11, the top of the register field that JSRR leaves zero, tells JSRR from JSR (R87, R88). -/
@[simp] theorem bit11_encodeOp_r0 (low : BitVec 6) : (encodeOp op .r0 sr1 low)[11] = false := by
  rw [← BitVec.getLsbD_eq_getElem, encodeOp, BitVec.getLsbD_append, BitVec.getLsbD_append, BitVec.getLsbD_append]
  rfl

end EncodeOp

section EncodePcRel

variable (op : BitVec 4) (r : Reg) (off9 : BitVec 9)

@[simp] theorem opcodeOf_encodePcRel : opcodeOf (encodePcRel op r off9) = op := field_opcode_encodePcRel op r off9

@[simp] theorem regHigh_encodePcRel : regHigh (encodePcRel op r off9) = r := by simp [regHigh]

end EncodePcRel

/-- BR's word has the PC-relative format, with the flag mask where a register would be (R82). -/
theorem encode_br (nzp : BitVec 3) (off9 : BitVec 9) :
    encode (.br nzp off9) = encodePcRel 0b0000#4 (Reg.ofBits nzp) off9 := by
  rw [encodePcRel, Reg.toBits_ofBits, encode]

/-- JSR's word, whose format no other instruction has (R87), read back. -/
theorem decode_encode_jsr (off11 : BitVec 11) : decode (encode (.jsr off11)) = .jsr off11 := by
  have hop : opcodeOf (encode (.jsr off11)) = 0b0100#4 := BitVec.extractLsb'_append_eq_of_le (by decide)
  have hmode : (encode (.jsr off11)).getLsbD 11 = true := BitVec.getLsbD_append
  have hoff : field (encode (.jsr off11)) 0 11 = off11 := BitVec.extractLsb'_append_eq_right
  simp only [decode, hop, hmode, hoff, if_true]

/-! ### TRAP's rows (R92, R98) -/

/-- Whichever row a selector has, encoding writes it in the TRAP format. -/
theorem encode_decodeTrap (v : BitVec 8) : encode (decodeTrap v) = encodeTrap v := by
  unfold decodeTrap
  split <;> rfl

theorem ignoredBits_decodeTrap (v : BitVec 8) : (decodeTrap v).ignoredBits = 0x0F00#16 := by
  unfold decodeTrap
  split <;> rfl

theorem decode_encodeTrap (v : BitVec 8) : decode (encodeTrap v) = decodeTrap v := by
  simp [decode, opcodeOf]

/-- An undefined selector has the general row. -/
theorem decodeTrap_eq_trap {v : BitVec 8} (h : (Instr.trap v).wf = true) : decodeTrap v = .trap v := by
  unfold decodeTrap
  split
  case h_7 => rfl
  all_goals exact absurd h (by decide)

/-! ### Decoding an encoded instruction (R98) -/

theorem decode_encode {i : Instr} (hi : i.wf = true) : decode (encode i) = i := by
  cases i with
  | br => simp [decode, encode_br]
  | jsr off11 => exact decode_encode_jsr off11
  | trap v => exact (decode_encodeTrap v).trans (decodeTrap_eq_trap hi)
  | addReg | addImm | andReg | andImm | ldr | str | not | jmp | jsrr | ld | st | ldi | sti | lea =>
    simp [decode, encode]
  | rti | reserved | trapGetc | trapOut | trapPuts | trapIn | trapPutsp | trapHalt => rfl

/-! ### Decoding reads no ignored bit (R100) -/

/-- No format ignores a bit of the opcode. -/
theorem opcodeOf_ignoredBits (i : Instr) : opcodeOf i.ignoredBits = 0#4 := by
  cases i <;> simp [Instr.ignoredBits, opcodeOf, field]

/-- Two words that differ only in bits the first one's format ignores are one instruction. -/
theorem decode_congr {v w : Word} (h : v ||| (decode v).ignoredBits = w ||| (decode v).ignoredBits) :
    decode v = decode w := by
  have hop : opcodeOf v = opcodeOf w := field_eq_of_or_eq h (opcodeOf_ignoredBits _)
  revert h
  unfold decode
  rw [← hop]
  split
  -- ADD and AND, immediate form, then register form
  case h_2 | h_6 =>
    split
    next hmode =>
      intro h
      obtain rfl := eq_of_or_zero h
      exact (if_pos hmode).symm
    next hmode =>
      intro (h : v ||| 0x0018#16 = w ||| 0x0018#16)
      rw [← getLsbD_eq_of_or_eq h (by decide), if_neg hmode, regHigh, regMid, regLow,
        field_eq_of_or_eq h (by decide), field_eq_of_or_eq h (by decide), field_eq_of_or_eq h (by decide)]
      rfl
  -- JSR, then JSRR
  case h_5 =>
    split
    next hmode =>
      intro h
      obtain rfl := eq_of_or_zero h
      exact (if_pos hmode).symm
    next hmode =>
      intro (h : v ||| 0x063F#16 = w ||| 0x063F#16)
      rw [← getLsbD_eq_of_or_eq h (by decide), if_neg hmode, regMid, field_eq_of_or_eq h (by decide)]
      rfl
  -- RTI and RESERVED
  case h_9 | h_14 => intro; rfl
  -- NOT
  case h_10 =>
    intro (h : v ||| 0x003F#16 = w ||| 0x003F#16)
    rw [regHigh, regMid, field_eq_of_or_eq h (by decide), field_eq_of_or_eq h (by decide)]
    rfl
  -- JMP
  case h_13 =>
    intro (h : v ||| 0x0E3F#16 = w ||| 0x0E3F#16)
    rw [regMid, field_eq_of_or_eq h (by decide)]
    rfl
  -- TRAP
  case h_16 =>
    intro h
    rw [ignoredBits_decodeTrap] at h
    rw [field_eq_of_or_eq h (by decide)]
  -- The formats that ignore nothing
  all_goals
    intro h
    obtain rfl := eq_of_or_zero h
    rfl

/-! ### A word is its fields side by side, in each format (R83 to R92) -/

section Fields

variable (w : Word)

theorem field_append_field (lo k j : Nat) : field w (lo + k) j ++ field w lo k = field w lo (j + k) :=
  BitVec.extractLsb'_append_extractLsb'_eq_extractLsb' rfl

theorem field_whole : field w 0 16 = w := BitVec.extractLsb'_eq_self

theorem field_one (k : Nat) : field w k 1 = BitVec.ofBool (w.getLsbD k) := by
  ext i hi
  obtain rfl : i = 0 := by omega
  simp [field]

theorem opcode_fields : opcodeOf w ++ field w 0 12 = w :=
  (field_append_field w 0 12 4).trans (field_whole w)

theorem trap_fields : opcodeOf w ++ field w 8 4 ++ field w 0 8 = w := by
  rw [opcodeOf, field_append_field w 8 4 4, field_append_field w 0 8 8]
  exact field_whole w

theorem jsr_fields : opcodeOf w ++ field w 11 1 ++ field w 0 11 = w := by
  rw [opcodeOf, field_append_field w 11 1 4, field_append_field w 0 11 5]
  exact field_whole w

theorem encodePcRel_fields : encodePcRel (opcodeOf w) (regHigh w) (field w 0 9) = w := by
  rw [encodePcRel, regHigh, Reg.toBits_ofBits, opcodeOf, field_append_field w 9 3 4, field_append_field w 0 9 7]
  exact field_whole w

theorem encodeOp_fields : encodeOp (opcodeOf w) (regHigh w) (regMid w) (field w 0 6) = w := by
  rw [encodeOp, regHigh, regMid, Reg.toBits_ofBits, Reg.toBits_ofBits, opcodeOf, field_append_field w 9 3 4,
    field_append_field w 6 3 7, field_append_field w 0 6 10]
  exact field_whole w

theorem mode_fields : field w 5 1 ++ field w 0 5 = field w 0 6 := field_append_field w 0 5 1

theorem sr2_fields : field w 3 2 ++ (regLow w).toBits = field w 0 5 := by
  rw [regLow, Reg.toBits_ofBits, field_append_field w 0 3 2]

end Fields

/-! ### Encoding what was decoded (R98, R100) -/

/-- Side by side, two pairs of fields that agree outside their masks. -/
theorem append_or_eq {n k : Nat} {x x' m : BitVec n} {y y' p : BitVec k} (hx : x ||| m = x' ||| m)
    (hy : y ||| p = y' ||| p) : (x ++ y) ||| (m ++ p) = (x' ++ y') ||| (m ++ p) := by
  rw [BitVec.or_append, BitVec.or_append, hx, hy]

/-- Any two fields agree outside the mask of all bits. -/
theorem or_allOnes_eq {n : Nat} (x y : BitVec n) : x ||| BitVec.allOnes n = y ||| BitVec.allOnes n := by
  rw [BitVec.or_allOnes, BitVec.or_allOnes]

section Agree

variable {w : Word}

/-- An OP word agrees with `w` outside a mask as soon as each of its operand fields does. -/
theorem encodeOp_or_eq {dr sr1 : Reg} {low : BitVec 6} (m₉ m₆ : BitVec 3) (m₀ : BitVec 6)
    (hdr : dr.toBits ||| m₉ = (regHigh w).toBits ||| m₉) (hsr : sr1.toBits ||| m₆ = (regMid w).toBits ||| m₆)
    (hlow : low ||| m₀ = field w 0 6 ||| m₀) :
    encodeOp (opcodeOf w) dr sr1 low ||| (0#4 ++ m₉ ++ m₆ ++ m₀) = w ||| (0#4 ++ m₉ ++ m₆ ++ m₀) := by
  conv_rhs => rw [← encodeOp_fields w]
  exact append_or_eq (append_or_eq (append_or_eq rfl hdr) hsr) hlow

/-- OP-REG (R83): `ir[4:3]` is ignored. -/
theorem encodeOp_reg_or_eq (hmode : w.getLsbD 5 = false) :
    encodeOp (opcodeOf w) (regHigh w) (regMid w) (0b0#1 ++ (0b00#2 ++ (regLow w).toBits)) ||| 0x0018#16 =
      w ||| 0x0018#16 := by
  refine encodeOp_or_eq 0#3 0#3 (0#1 ++ (3#2 ++ 0#3)) rfl rfl ?_
  rw [← mode_fields, ← sr2_fields, field_one, hmode]
  exact append_or_eq rfl (append_or_eq (or_allOnes_eq _ _) rfl)

/-- OP-IMM (R84). -/
theorem encodeOp_imm_fields (hmode : w.getLsbD 5 = true) :
    encodeOp (opcodeOf w) (regHigh w) (regMid w) (0b1#1 ++ field w 0 5) = w := by
  have hbit : field w 5 1 = 0b1#1 := by rw [field_one, hmode]; rfl
  rw [← hbit, mode_fields, encodeOp_fields]

/-- JSRR (R88): `ir[10:9]` and `ir[5:0]` are ignored. -/
theorem encodeOp_jsrr_or_eq (hmode : w.getLsbD 11 = false) :
    encodeOp (opcodeOf w) .r0 (regMid w) 0#6 ||| 0x063F#16 = w ||| 0x063F#16 := by
  refine encodeOp_or_eq 3#3 0#3 0x3F#6 ?_ rfl (or_allOnes_eq _ _)
  rw [regHigh, Reg.toBits_ofBits, ← field_append_field w 9 2 1, field_one, hmode]
  exact append_or_eq (x := 0#1) (m := 0#1) rfl (or_allOnes_eq 0#2 _)

/-- JSR (R87). -/
theorem jsr_mode_fields (hmode : w.getLsbD 11 = true) : opcodeOf w ++ 0b1#1 ++ field w 0 11 = w := by
  have hbit : field w 11 1 = 0b1#1 := by rw [field_one, hmode]; rfl
  rw [← hbit, jsr_fields]

/-- OPONLY, RTI and RESERVED (R91): `ir[11:0]` is ignored. -/
theorem opcode_or_eq : (opcodeOf w ++ 0#12) ||| 0x0FFF#16 = w ||| 0x0FFF#16 := by
  conv_rhs => rw [← opcode_fields w]
  exact append_or_eq (m := 0#4) rfl (or_allOnes_eq _ _)

/-- TRAP (R92): `ir[11:8]` is ignored. -/
theorem trap_or_eq : (opcodeOf w ++ 0#4 ++ field w 0 8) ||| 0x0F00#16 = w ||| 0x0F00#16 := by
  conv_rhs => rw [← trap_fields w]
  exact append_or_eq (append_or_eq (m := 0#4) rfl (or_allOnes_eq _ _)) (p := 0#8) rfl

end Agree

/-- Encoding the instruction of a word gives the word again, up to the bits its format ignores. -/
theorem encode_decode (w : Word) :
    encode (decode w) ||| (decode w).ignoredBits = w ||| (decode w).ignoredBits := by
  unfold decode
  split
  -- BR
  case h_1 hop =>
    rw [encode_br, ← hop]
    exact congrArg (· ||| _) (encodePcRel_fields w)
  -- ADD and AND, immediate form, then register form
  case h_2 hop | h_6 hop =>
    split
    next hmode =>
      rw [encode, ← hop, encodeOp_imm_fields hmode]
    next hmode =>
      rw [encode, ← hop]
      exact encodeOp_reg_or_eq (eq_false_of_ne_true hmode)
  -- LD, ST, LDI, STI, LEA
  case h_3 hop | h_4 hop | h_11 hop | h_12 hop | h_15 hop =>
    rw [encode, ← hop, encodePcRel_fields]
  -- JSR, then JSRR
  case h_5 hop =>
    split
    next hmode =>
      rw [encode, ← hop]
      exact congrArg (· ||| _) (jsr_mode_fields hmode)
    next hmode =>
      rw [encode, ← hop]
      exact encodeOp_jsrr_or_eq (eq_false_of_ne_true hmode)
  -- LDR and STR
  case h_7 hop | h_8 hop =>
    rw [encode, ← hop, encodeOp_fields]
  -- RTI and RESERVED
  case h_9 hop | h_14 hop =>
    refine .trans ?_ opcode_or_eq
    rw [hop]
    rfl
  -- NOT
  case h_10 hop =>
    rw [encode, ← hop]
    exact encodeOp_or_eq 0#3 0#3 0x3F#6 rfl rfl (or_allOnes_eq _ _)
  -- JMP
  case h_13 hop =>
    rw [encode, ← hop]
    exact encodeOp_or_eq 7#3 0#3 0x3F#6 (or_allOnes_eq _ _) rfl (or_allOnes_eq _ _)
  -- TRAP
  case h_16 =>
    have hop : opcodeOf w = 0b1111#4 := by
      generalize opcodeOf w = op at *
      decide +revert
    rw [encode_decodeTrap, ignoredBits_decodeTrap, encodeTrap, ← hop]
    exact trap_or_eq

/-! ### Rows of the opcode table (R98) -/

/-- The encoder's word stands in its instruction's row. -/
theorem encode_and_rowMask : ∀ i : Instr, encode i &&& i.rowMask = i.rowMatch
  | .br nzp off9 => Laws.RowMatch.br nzp off9
  | .addReg dr sr1 sr2 => Laws.RowMatch.addReg dr sr1 sr2
  | .addImm dr sr1 imm5 => Laws.RowMatch.addImm dr sr1 imm5
  | .ld dr off9 => Laws.RowMatch.ld dr off9
  | .st sr off9 => Laws.RowMatch.st sr off9
  | .jsr off11 => Laws.RowMatch.jsr off11
  | .jsrr base => Laws.RowMatch.jsrr base
  | .andReg dr sr1 sr2 => Laws.RowMatch.andReg dr sr1 sr2
  | .andImm dr sr1 imm5 => Laws.RowMatch.andImm dr sr1 imm5
  | .ldr dr base off6 => Laws.RowMatch.ldr dr base off6
  | .str sr base off6 => Laws.RowMatch.str sr base off6
  | .rti => Laws.RowMatch.rti
  | .not dr sr => Laws.RowMatch.not dr sr
  | .ldi dr off9 => Laws.RowMatch.ldi dr off9
  | .sti sr off9 => Laws.RowMatch.sti sr off9
  | .jmp base => Laws.RowMatch.jmp base
  | .reserved => Laws.RowMatch.reserved
  | .lea dr off9 => Laws.RowMatch.lea dr off9
  | .trapGetc => Laws.RowMatch.trapGetc
  | .trapOut => Laws.RowMatch.trapOut
  | .trapPuts => Laws.RowMatch.trapPuts
  | .trapIn => Laws.RowMatch.trapIn
  | .trapPutsp => Laws.RowMatch.trapPutsp
  | .trapHalt => Laws.RowMatch.trapHalt
  | .trap vect8 => Laws.RowMatch.trap vect8

/-- No format ignores a bit that chooses its row. -/
theorem ignoredBits_and_rowMask (i : Instr) : i.ignoredBits &&& i.rowMask = 0#16 := by
  cases i <;> simp [Instr.ignoredBits, Instr.rowMask]

/-- Setting bits the format ignores keeps the row. -/
theorem or_ignoredBits_and_rowMask (w : Word) (i : Instr) : (w ||| i.ignoredBits) &&& i.rowMask = w &&& i.rowMask := by
  rw [BitVec.and_or_distrib_right, ignoredBits_and_rowMask, BitVec.or_zero]

/-- Every word has the fixed bits of the row it decodes to. -/
theorem and_rowMask_decode (w : Word) : w &&& (decode w).rowMask = (decode w).rowMatch := by
  rw [← or_ignoredBits_and_rowMask, ← encode_decode, or_ignoredBits_and_rowMask, encode_and_rowMask]

/-- One instruction is decoded from words that differ only in bits it ignores. -/
theorem or_ignoredBits_eq_of_decode_eq {v w : Word} (h : decode v = decode w) :
    v ||| (decode v).ignoredBits = w ||| (decode v).ignoredBits := by
  rw [← encode_decode v, h, encode_decode w]

end Sys2Proof

/-! ### The statements -/

namespace Sys2Proof.Proofs

/-- Settles O27: decoding reads each operand's field back from where its format puts it. -/
theorem decodeOfEncode : Obligations.DecodeOfEncode := fun _ hi => decode_encode hi

/-- Settles O28: up to ignored bits, which choose no row, a word is the encoding of its own reading. -/
theorem everyWordStandsInItsRow : Obligations.EveryWordStandsInItsRow :=
  fun w => ⟨Machine.decode_wf w, and_rowMask_decode w⟩

/-- Settles O29: decoding reads no ignored bit, and encoding determines every other. -/
theorem sameInstructionUpToIgnoredBits : Obligations.SameInstructionUpToIgnoredBits :=
  fun _ _ => ⟨or_ignoredBits_eq_of_decode_eq, decode_congr⟩

/-- Settles O30, by running the decoder on each word. -/
theorem writtenOutWordsDecode : Obligations.WrittenOutWordsDecode := by
  unfold Obligations.WrittenOutWordsDecode
  decide

end Sys2Proof.Proofs
end

section
/-! PROOFS. Family 40_cycle: one step of a running core in terms of the device-aware read that fetches (R54, R110),
and the halted core (R115). -/

namespace Sys2Proof.Machine

/-- A running core executes the word its device-aware read of the PC answers, in the state that read leaves, with the
PC advanced (R110, D8). -/
theorem step_of_running {s : State} (hr : s.running = true) :
    step s = exec (decode ((s.afterRead s.pc).memPeek s.pc)) ((s.afterRead s.pc).setPc (s.pc + 1#16)) := by
  rw [step_running hr, State.fetch_eq]

end Sys2Proof.Machine

/-! ### The statements -/

namespace Sys2Proof.Proofs

open Sys2Proof.Machine

/-- Settles O39: the state in question is what the device-aware read of the PC leaves. -/
theorem stepRunsDecodedInstruction : Obligations.StepRunsDecodedInstruction :=
  fun s hr => ⟨s.afterRead s.pc, s.afterRead_leaves s.pc, step_of_running hr⟩

/-- Settles O40: the step's guard is the running flag. -/
theorem haltedCoreHasNoStep : Obligations.HaltedCoreHasNoStep := fun _ hr => step_halted hr

end Sys2Proof.Proofs
end

section
/-! PROOFS. Family 41_operate: ADD, AND and NOT (R121 to R125). A row of the opcode table fixes the opcode and, for ADD
and AND, the mode bit; each of the five ends in `writeDest`, whose whole effect is `writeDest_result` (R126). -/

namespace Sys2Proof

/-! ### What a row of the opcode table fixes (R80, R98) -/

section Row

variable {w mask row : Word}

/-- A row whose mask covers the opcode fixes the opcode. -/
theorem opcodeOf_of_row (h : w &&& mask = row) (hm : opcodeOf mask = 0xF#4) : opcodeOf w = opcodeOf row := by
  have hand : opcodeOf (w &&& mask) = opcodeOf w &&& opcodeOf mask := BitVec.extractLsb'_and
  rw [← h, hand, hm]
  exact BitVec.and_allOnes.symm

/-- A row fixes every bit its mask covers. -/
theorem getLsbD_of_row {k : Nat} (h : w &&& mask = row) (hm : mask.getLsbD k = true) :
    w.getLsbD k = row.getLsbD k := by
  rw [← h, BitVec.getLsbD_and, hm, Bool.and_true]

end Row

/-! ### The five rows (R83, R84, R90, R121 to R125) -/

section OperateRows

variable {w : Word}

theorem decode_addReg_row (h : w &&& 0xF020#16 = 0x1000#16) :
    decode w = .addReg (regHigh w) (regMid w) (regLow w) := by
  have hop : opcodeOf w = 0b0001#4 := opcodeOf_of_row h rfl
  have hmode : w.getLsbD 5 = false := getLsbD_of_row h rfl
  simp only [decode, hop, hmode, Bool.false_eq_true, reduceIte]

theorem decode_addImm_row (h : w &&& 0xF020#16 = 0x1020#16) :
    decode w = .addImm (regHigh w) (regMid w) (field w 0 5) := by
  have hop : opcodeOf w = 0b0001#4 := opcodeOf_of_row h rfl
  have hmode : w.getLsbD 5 = true := getLsbD_of_row h rfl
  simp only [decode, hop, hmode, reduceIte]

theorem decode_andReg_row (h : w &&& 0xF020#16 = 0x5000#16) :
    decode w = .andReg (regHigh w) (regMid w) (regLow w) := by
  have hop : opcodeOf w = 0b0101#4 := opcodeOf_of_row h rfl
  have hmode : w.getLsbD 5 = false := getLsbD_of_row h rfl
  simp only [decode, hop, hmode, Bool.false_eq_true, reduceIte]

theorem decode_andImm_row (h : w &&& 0xF020#16 = 0x5020#16) :
    decode w = .andImm (regHigh w) (regMid w) (field w 0 5) := by
  have hop : opcodeOf w = 0b0101#4 := opcodeOf_of_row h rfl
  have hmode : w.getLsbD 5 = true := getLsbD_of_row h rfl
  simp only [decode, hop, hmode, reduceIte]

theorem decode_not_row (h : w &&& 0xF000#16 = 0x9000#16) : decode w = .not (regHigh w) (regMid w) := by
  have hop : opcodeOf w = 0b1001#4 := opcodeOf_of_row h rfl
  simp [decode, hop]

end OperateRows

end Sys2Proof

/-! ### The statements -/

namespace Sys2Proof.Proofs

open Sys2Proof.Machine

/-- Settles O1: opcode 1 with the mode bit clear, ending in `writeDest`. -/
theorem addRegister : Obligations.AddRegister :=
  ⟨fun _ h => decode_addReg_row h, fun _ _ _ s => ⟨_, rfl, s.writeDest_result _ _⟩⟩

/-- Settles O2: opcode 1 with the mode bit set, ending in `writeDest`. -/
theorem addImmediate : Obligations.AddImmediate :=
  ⟨fun _ h => decode_addImm_row h, fun _ _ _ s => ⟨_, rfl, s.writeDest_result _ _⟩⟩

/-- Settles O3: opcode 5 with the mode bit clear, ending in `writeDest`. -/
theorem andRegister : Obligations.AndRegister :=
  ⟨fun _ h => decode_andReg_row h, fun _ _ _ s => ⟨_, rfl, s.writeDest_result _ _⟩⟩

/-- Settles O4: opcode 5 with the mode bit set, ending in `writeDest`. -/
theorem andImmediate : Obligations.AndImmediate :=
  ⟨fun _ h => decode_andImm_row h, fun _ _ _ s => ⟨_, rfl, s.writeDest_result _ _⟩⟩

/-- Settles O5: taking a word from the word of all ones complements it. -/
theorem notComplements : Obligations.NotComplements := by
  refine ⟨fun _ h => decode_not_row h, fun dr sr s => ⟨_, rfl, ?_⟩⟩
  have hnot : 0xFFFF#16 - s.reg sr = ~~~ s.reg sr := BitVec.allOnes_sub_eq_not _
  rw [hnot]
  exact s.writeDest_result dr _

end Sys2Proof.Proofs
end

section
/-! PROOFS. Family 42_data_movement: LD, LDI, LDR, LEA, ST, STI and STR (R131 to R137). Each has an opcode of its own.
A load ends in `loadInto`, a store in `memWrite`, and a pointer is the word its device-aware read answers. -/

namespace Sys2Proof

/-! ### The seven rows (R85, R86, R131 to R137) -/

section DataMovementRows

variable {w : Word}

theorem decode_ld_row (h : w &&& 0xF000#16 = 0x2000#16) : decode w = .ld (regHigh w) (field w 0 9) := by
  have hop : opcodeOf w = 0b0010#4 := opcodeOf_of_row h rfl
  simp only [decode, hop]

theorem decode_ldi_row (h : w &&& 0xF000#16 = 0xA000#16) : decode w = .ldi (regHigh w) (field w 0 9) := by
  have hop : opcodeOf w = 0b1010#4 := opcodeOf_of_row h rfl
  simp only [decode, hop]

theorem decode_ldr_row (h : w &&& 0xF000#16 = 0x6000#16) :
    decode w = .ldr (regHigh w) (regMid w) (field w 0 6) := by
  have hop : opcodeOf w = 0b0110#4 := opcodeOf_of_row h rfl
  simp only [decode, hop]

theorem decode_lea_row (h : w &&& 0xF000#16 = 0xE000#16) : decode w = .lea (regHigh w) (field w 0 9) := by
  have hop : opcodeOf w = 0b1110#4 := opcodeOf_of_row h rfl
  simp only [decode, hop]

theorem decode_st_row (h : w &&& 0xF000#16 = 0x3000#16) : decode w = .st (regHigh w) (field w 0 9) := by
  have hop : opcodeOf w = 0b0011#4 := opcodeOf_of_row h rfl
  simp only [decode, hop]

theorem decode_sti_row (h : w &&& 0xF000#16 = 0xB000#16) : decode w = .sti (regHigh w) (field w 0 9) := by
  have hop : opcodeOf w = 0b1011#4 := opcodeOf_of_row h rfl
  simp only [decode, hop]

theorem decode_str_row (h : w &&& 0xF000#16 = 0x7000#16) :
    decode w = .str (regHigh w) (regMid w) (field w 0 6) := by
  have hop : opcodeOf w = 0b0111#4 := opcodeOf_of_row h rfl
  simp only [decode, hop]

end DataMovementRows

end Sys2Proof

namespace Sys2Proof.Machine

/-! ### The shared end of the loads, and the pointer of LDI and STI (R130) -/

namespace State

/-- A load writes the word its device-aware read answers, from the state that read leaves (R54, D8). -/
theorem loadInto_result (s : State) (dr : Reg) (ea : Word) :
    ResultWritten (s.afterRead ea) (s.loadInto dr ea) dr ((s.afterRead ea).memPeek ea) :=
  (s.afterRead ea).writeDest_result dr _

theorem pointer9_eq (s : State) (off9 : BitVec 9) :
    s.pointer9 off9 = ((s.afterRead (s.pc + sext off9)).memPeek (s.pc + sext off9), s.afterRead (s.pc + sext off9)) :=
  rfl

end State

/-! ### The two indirect instructions in terms of their reads (R132, R136) -/

/-- LDI loads, in the state the read of the pointer leaves, through the pointer (D22). -/
theorem exec_ldi (dr : Reg) (off9 : BitVec 9) (s : State) :
    exec (.ldi dr off9) s = .next ((s.afterRead (s.pc + sext off9)).loadInto dr
      ((s.afterRead (s.pc + sext off9)).memPeek (s.pc + sext off9))) := by
  simp only [exec, execLdi, State.pointer9_eq]

/-- STI stores, in the state the read of the pointer leaves, at the pointer; the read keeps SR (D22). -/
theorem exec_sti (sr : Reg) (off9 : BitVec 9) (s : State) :
    exec (.sti sr off9) s = .next ((s.afterRead (s.pc + sext off9)).memWrite
      ((s.afterRead (s.pc + sext off9)).memPeek (s.pc + sext off9)) (s.reg sr)) := by
  simp only [exec, execSti, State.pointer9_eq, State.afterRead_reg]

end Sys2Proof.Machine

/-! ### The statements -/

namespace Sys2Proof.Proofs

open Sys2Proof.Machine

/-- Settles O6: opcode 2, one load at the PC-relative address. -/
theorem loadPcRelative : Obligations.LoadPcRelative :=
  ⟨fun _ h => decode_ld_row h,
    fun dr _ s => ⟨_, _, s.afterRead_leaves _, rfl, s.loadInto_result dr _⟩⟩

/-- Settles O7: opcode 10, a load through the pointer, from the state the pointer's read leaves. -/
theorem loadIndirect : Obligations.LoadIndirect :=
  ⟨fun _ h => decode_ldi_row h,
    fun dr off9 s => ⟨_, _, _, s.afterRead_leaves _, State.afterRead_leaves _ _, exec_ldi dr off9 s,
      State.loadInto_result _ dr _⟩⟩

/-- Settles O8: opcode 6, one load at base plus offset; the address is formed before DR is written. -/
theorem loadBasePlusOffset : Obligations.LoadBasePlusOffset :=
  ⟨fun _ h => decode_ldr_row h,
    fun dr _ _ s => ⟨_, _, s.afterRead_leaves _, rfl, s.loadInto_result dr _⟩⟩

/-- Settles O9: opcode 14, the address itself into `writeDest`. -/
theorem loadEffectiveAddress : Obligations.LoadEffectiveAddress :=
  ⟨fun _ h => decode_lea_row h, fun dr _ s => ⟨_, rfl, s.writeDest_result dr _⟩⟩

/-- Settles O10: opcode 3, one plain store at the PC-relative address. -/
theorem storePcRelative : Obligations.StorePcRelative :=
  ⟨fun _ h => decode_st_row h, fun _ _ s => ⟨_, rfl, s.memWrite_stored _ _⟩⟩

/-- Settles O11: opcode 11, one plain store at the pointer, from the state the pointer's read leaves. -/
theorem storeIndirect : Obligations.StoreIndirect :=
  ⟨fun _ h => decode_sti_row h,
    fun sr off9 s => ⟨_, _, s.afterRead_leaves _, exec_sti sr off9 s, State.memWrite_stored _ _ _⟩⟩

/-- Settles O12: opcode 7, one plain store at base plus offset. -/
theorem storeBasePlusOffset : Obligations.StoreBasePlusOffset :=
  ⟨fun _ h => decode_str_row h, fun _ _ _ s => ⟨_, rfl, s.memWrite_stored _ _⟩⟩

end Sys2Proof.Proofs
end

section
/-! PROOFS. Family 43_control: BR, JMP, JSR, JSRR and RESERVED (R151 to R158). A jump ends in a `setPc`, for JSR and
JSRR after the link in R7; what such an end leaves unchanged is said once, in `jumped_of_regs` (R159). -/

namespace Sys2Proof

/-! ### The five rows (R82, R87 to R89, R91) -/

section ControlRows

variable {w : Word}

theorem decode_br_row (h : w &&& 0xF000#16 = 0x0000#16) : decode w = .br (field w 9 3) (field w 0 9) := by
  have hop : opcodeOf w = 0b0000#4 := opcodeOf_of_row h rfl
  simp only [decode, hop]

theorem decode_jmp_row (h : w &&& 0xF000#16 = 0xC000#16) : decode w = .jmp (regMid w) := by
  have hop : opcodeOf w = 0b1100#4 := opcodeOf_of_row h rfl
  simp only [decode, hop]

theorem decode_jsr_row (h : w &&& 0xF800#16 = 0x4800#16) : decode w = .jsr (field w 0 11) := by
  have hop : opcodeOf w = 0b0100#4 := opcodeOf_of_row h rfl
  have hmode : w.getLsbD 11 = true := getLsbD_of_row h rfl
  simp only [decode, hop, hmode, reduceIte]

theorem decode_jsrr_row (h : w &&& 0xF800#16 = 0x4000#16) : decode w = .jsrr (regMid w) := by
  have hop : opcodeOf w = 0b0100#4 := opcodeOf_of_row h rfl
  have hmode : w.getLsbD 11 = false := getLsbD_of_row h rfl
  simp only [decode, hop, hmode, Bool.false_eq_true, reduceIte]

theorem decode_reserved_row (h : w &&& 0xF000#16 = 0xD000#16) : decode w = .reserved := by
  have hop : opcodeOf w = 0b1101#4 := opcodeOf_of_row h rfl
  simp only [decode, hop]

end ControlRows

end Sys2Proof

namespace Sys2Proof.Machine

/-! ### The two ends of a control instruction (R159) -/

namespace State

/-- Moving the PC, and beside it only registers that are listed, is a jump. -/
theorem jumped_of_regs (s : State) {ds : List Reg} {g : Regs} (v : Word) (hg : ∀ r, r ∉ ds → g.get r = s.reg r) :
    Jumped s { s with regs := g, pc := v } ds v where
  pc := rfl
  regs := hg
  cond := rfl
  privilege := ⟨rfl, rfl, rfl⟩
  run := ⟨rfl, rfl⟩
  memory _ _ := rfl
  host := ⟨rfl, rfl, rfl, rfl⟩

/-- The end of BR and JMP. -/
theorem setPc_jumped (s : State) (v : Word) : Jumped s (s.setPc v) [] v :=
  s.jumped_of_regs v fun _ _ => rfl

/-- The end of JSR and JSRR, with the link in R7. -/
theorem link_jumped (s : State) (v : Word) : Jumped s ((s.setReg .r7 s.pc).setPc v) [.r7] v :=
  s.jumped_of_regs v fun _ hr => s.setReg_reg_ne s.pc (by simpa using hr)

end State

/-! ### BR's test (R151, R152) -/

theorem branchTaken_iff {nzp cond : BitVec 3} : branchTaken nzp cond = true ↔ nzp &&& cond ≠ 0b000#3 := bne_iff_ne

/-- BR moves the PC to its target, or to where it stands when the mask meets no flag. -/
theorem exec_br (nzp : BitVec 3) (off9 : BitVec 9) (s : State) :
    exec (.br nzp off9) s = .next (s.setPc (if nzp &&& s.cond = 0b000#3 then s.pc else s.pc + sext off9)) := by
  simp only [exec, execBr, branchTaken_iff, ne_eq, ite_not, apply_ite s.setPc]
  rfl

/-- A column of R152's table: a mask meets the one flag set exactly when its own bit there is set. -/
theorem and_twoPow_eq_zero_iff {n k : Nat} (hk : k < n) (x : BitVec n) :
    x &&& BitVec.twoPow n k = 0#n ↔ x.getLsbD k = false := by
  have hne : BitVec.twoPow n k ≠ 0#n := fun h => by simpa [hk] using congrArg (·.getLsbD k) h
  rw [BitVec.and_twoPow]
  cases x.getLsbD k <;> simp [hne]

/-- The choice BR makes in that column. -/
theorem branch_of_oneFlag {nzp cond : BitVec 3} {k : Nat} (hk : k < 3) (hc : cond = BitVec.twoPow 3 k)
    (stay target : Word) :
    (if nzp &&& cond = 0b000#3 then stay else target) = if nzp.getLsbD k then target else stay := by
  simp only [hc, and_twoPow_eq_zero_iff hk]
  cases nzp.getLsbD k <;> rfl

end Sys2Proof.Machine

/-! ### The statements -/

namespace Sys2Proof.Proofs

open Sys2Proof.Machine

/-- Settles O13: the two outcomes of the test, then the column without a flag and the three with one. -/
theorem branchOnFlags : Obligations.BranchOnFlags := by
  refine ⟨fun _ h => decode_br_row h, fun nzp off9 s => ⟨_, exec_br nzp off9 s, ?_, ?_, ?_,
    fun h => branch_of_oneFlag (k := 2) (by decide) h _ _, fun h => branch_of_oneFlag (k := 1) (by decide) h _ _,
    fun h => branch_of_oneFlag (k := 0) (by decide) h _ _⟩⟩
  · intro h
    rw [if_neg h]
    exact s.setPc_jumped _
  · intro h
    rw [if_pos h]
    exact s.setPc_jumped _
  · intro h
    rw [State.setPc_pc, h, BitVec.and_zero, if_pos rfl]

/-- Settles O14: opcode 12, the old word of BaseR into the PC. -/
theorem jumpThroughRegister : Obligations.JumpThroughRegister :=
  ⟨fun _ h => decode_jmp_row h, decode_jmp_row rfl, fun base s => ⟨_, rfl, s.setPc_jumped (s.reg base)⟩⟩

/-- Settles O15: opcode 4 with bit 11 set; the link leaves the PC the offset is added to. -/
theorem jumpToSubroutine : Obligations.JumpToSubroutine :=
  ⟨fun _ h => decode_jsr_row h,
    fun off11 s => ⟨_, rfl, s.setReg_reg_same .r7 s.pc, s.link_jumped (s.pc + sext off11)⟩⟩

/-- Settles O16: opcode 4 with bit 11 clear; BaseR is read after the link, which shows only in R7. -/
theorem jumpToSubroutineRegister : Obligations.JumpToSubroutineRegister := by
  refine ⟨fun _ h => decode_jsrr_row h, fun base s => ⟨_, rfl, s.setReg_reg_same .r7 s.pc, ?_⟩⟩
  rw [← s.setReg_reg .r7 base s.pc]
  exact s.link_jumped _

/-- Settles O17: opcode 13, whose meaning is the identity. -/
theorem reservedDoesNothing : Obligations.ReservedDoesNothing :=
  ⟨fun _ h => decode_reserved_row h, fun _ => rfl⟩

end Sys2Proof.Proofs
end

section
/-! PROOFS. Family 44_trap: TRAP's rows and the six console services (R165 to R177). The two string services are one
scan, of words for PUTS and of packed bytes for PUTSP, whose codes `ScanWrites` characterises. With them stand the
statements about every instruction that name TRAP: who writes `pc` (R26) and who writes memory (R57), both read off
what a completing instruction can do; and the device-aware read (R54). -/

namespace Sys2Proof

/-! ### TRAP's rows (R92, R165) -/

section TrapRows

variable {w mask row : Word}

/-- A row fixes every field its mask covers. -/
theorem field_of_row {lo k : Nat} (h : w &&& mask = row) (hm : field mask lo k = BitVec.allOnes k) :
    field w lo k = field row lo k := by
  have hand : field (w &&& mask) lo k = field w lo k &&& field mask lo k := BitVec.extractLsb'_and
  rw [← h, hand, hm, BitVec.and_allOnes]

/-- Opcode 15 is TRAP, read by its selector. -/
theorem decode_of_opcode_trap (hop : opcodeOf w = 0b1111#4) : decode w = decodeTrap (field w 0 8) := by
  simp [decode, hop]

/-- The row of one selector fixes the instruction, whatever `ir[11:8]` holds (D2). -/
theorem decode_service_row (h : w &&& 0xF0FF#16 = row) (hop : opcodeOf row = 0b1111#4) :
    decode w = decodeTrap (field row 0 8) := by
  have hw : opcodeOf w = 0b1111#4 := (opcodeOf_of_row h rfl).trans hop
  rw [decode_of_opcode_trap hw, field_of_row h rfl]

end TrapRows

/-- The general row is well formed exactly on the selectors that no service has. -/
theorem trap_wf_iff {v : BitVec 8} : (Instr.trap v).wf = true ↔ v ∉ definedSelectors := by
  simp [Instr.wf]

end Sys2Proof

namespace Sys2Proof.Machine

/-! ### Blocking reads (R117, R168, R173) -/

section ReadChar

variable {s : State} (echo : Bool)

theorem readChar_blocks (h : s.input = []) : s.readChar echo = .fault (.waitingForInput s.output) := by
  simp only [State.readChar, State.consoleRead_nil h]

/-- The next character goes to R0, and to the output where it is echoed. -/
theorem readChar_takes {c : Byte} {rest : List Byte} (h : s.input = c :: rest) :
    s.readChar echo = .next { s with
      regs := s.regs.set .r0 (zext c), input := rest, output := s.output ++ if echo then [c] else [] } := by
  simp only [State.readChar, State.consoleRead_cons h]
  cases echo <;> simp [State.setReg, State.dropInput, State.consoleWrite, h]

end ReadChar

/-! ### String scans (R170, R171, R174) -/

/-- `codes` is what a scan writes that meets at most `bound` items `item 0`, `item 1`, ..., stops at the first zero
one, and writes `code k` for the `k`-th before it. -/
def ScanWrites {w : Nat} (item : Nat → BitVec w) (code : Nat → Byte) (bound : Nat) (codes : List Byte) : Prop :=
  ∃ n ≤ bound, (∀ k < n, item k ≠ 0#w) ∧ (n < bound → item n = 0#w) ∧ codes = (List.range n).map code

namespace ScanWrites

variable {w : Nat} {item : Nat → BitVec w} {code : Nat → Byte} {bound : Nat} {codes : List Byte}

theorem nil (h : 0 < bound → item 0 = 0#w) : ScanWrites item code bound [] :=
  ⟨0, Nat.zero_le _, nofun, h, rfl⟩

/-- One item that is not zero, then a scan from the next item on. -/
theorem cons (h₀ : item 0 ≠ 0#w)
    (h : ScanWrites (fun k => item (k + 1)) (fun k => code (k + 1)) bound codes) :
    ScanWrites item code (bound + 1) (code 0 :: codes) := by
  obtain ⟨n, hn, hbefore, hzero, rfl⟩ := h
  refine ⟨n + 1, Nat.succ_le_succ hn, ?_, fun hlt => hzero (Nat.lt_of_succ_lt_succ hlt), ?_⟩
  · rintro (_ | k) hk
    · exact h₀
    · exact hbefore k (Nat.lt_of_succ_lt_succ hk)
  · simp [List.range_succ_eq_map, Function.comp_def]

end ScanWrites

/-- Counting addresses from the next one on is counting one further (R50: addresses wrap). -/
theorem add_one_add_ofNat (a : Word) (k : Nat) : a + 1#16 + BitVec.ofNat 16 k = a + BitVec.ofNat 16 (k + 1) := by
  rw [BitVec.add_assoc, ← BitVec.ofNat_add, Nat.add_comm 1 k]

namespace State

variable (s : State)

/-- The word that stands `k`-th in a string of words, as `packedByte` counts its bytes. -/
def wordAt (a : Word) (k : Nat) : Word := s.memPeek (a + BitVec.ofNat 16 k)

theorem wordAt_zero (a : Word) : s.wordAt a 0 = s.memPeek a := by simp [wordAt]

theorem wordAt_next (a : Word) (k : Nat) : s.wordAt (a + 1#16) k = s.wordAt a (k + 1) := by
  rw [wordAt, wordAt, add_one_add_ofNat]

/-- PUTS scans words and writes their low bytes. -/
theorem putsCodes_scan (bound : Nat) (a : Word) :
    ScanWrites (s.wordAt a) (fun k => lowByte (s.wordAt a k)) bound (s.putsCodes bound a) := by
  induction bound generalizing a with
  | zero => exact .nil nofun
  | succ bound ih =>
    have hnext := ih (a + 1#16)
    rw [funext (s.wordAt_next a)] at hnext
    rw [putsCodes, ← wordAt_zero]
    split
    case isTrue hw => exact .nil fun _ => hw
    case isFalse hw => exact .cons hw hnext

theorem packedByte_zero (a : Word) : packedByte s a 0 = lowByte (s.memPeek a) := by simp [packedByte, lowByte]
theorem packedByte_one (a : Word) : packedByte s a 1 = highByte (s.memPeek a) := by simp [packedByte, highByte]

theorem packedByte_next (a : Word) (k : Nat) : packedByte s (a + 1#16) k = packedByte s a (k + 2) := by
  simp [packedByte, add_one_add_ofNat]

/-- PUTSP scans packed bytes, two to a word, and writes them. -/
theorem putspCodes_scan (bound : Nat) (a : Word) :
    ScanWrites (packedByte s a) (packedByte s a) (2 * bound) (s.putspCodes bound a) := by
  induction bound generalizing a with
  | zero => exact .nil nofun
  | succ bound ih =>
    have hnext := ih (a + 1#16)
    rw [funext (s.packedByte_next a)] at hnext
    rw [putspCodes, ← packedByte_zero, ← packedByte_one]
    split
    case isTrue hlow => exact .nil fun _ => hlow
    case isFalse hlow =>
      split
      case isTrue hhigh => exact .cons hlow (.nil fun _ => hhigh)
      case isFalse hhigh => exact .cons hlow (.cons hhigh hnext)

/-- Device-aware reads, however many, write only the two keyboard words, and those only if KBSR is read (R54). -/
theorem afterReads_memPeek {as : List Word} {b : Word} (h : kbsr ∈ as → b ≠ kbsr ∧ b ≠ kbdr) :
    (s.afterReads as).memPeek b = s.memPeek b := by
  induction as generalizing s with
  | nil => rfl
  | cons a as ih =>
    calc ((s.afterRead a).afterReads as).memPeek b
      _ = (s.afterRead a).memPeek b := ih (s.afterRead a) fun hmem => h (List.mem_cons_of_mem a hmem)
      _ = s.memPeek b := s.afterRead_memPeek a fun ha => h (by simp [ha])

end State

/-! ### What every completing instruction keeps of `pc` and of memory (R26, R57) -/

/-- R26: an instruction that is no writer of `pc` leaves it where the fetch put it. -/
theorem exec_pc {i : Instr} {s t : State} (h : exec i s = .next t) (hpc : writesPc i = false) : t.pc = s.pc := by
  cases exec_effect h with
  | result | store => simp [State.writeDest_eq]
  | readChar | write | halt => rfl
  | jump v hi | link v hi => exact nomatch hi.pc.symm.trans hpc
  | rtiReturn hi | rtiViolation hi => subst hi; exact nomatch hpc

/-- R57: a word that the instruction neither stores to nor polls reads as it read. -/
theorem exec_memory {i : Instr} {s t : State} (h : exec i s = .next t) {a : Word} (hstore : a ∉ storeAddrs i s)
    (hread : State.kbsr ∈ readAddrs i s → a ≠ State.kbsr ∧ a ≠ State.kbdr) : t.memPeek a = s.memPeek a := by
  have hreads := s.afterReads_memPeek hread
  cases exec_effect h with
  | result => exact hreads
  | store sr b hi hr hb =>
    rw [State.memWrite_memPeek_ne _ _ (by simpa [hb] using hstore), hreads]
  | jump | link | readChar | write | halt => rfl
  | rtiReturn hi hm =>
    subst hi
    simp only [readAddrs, hm, Bool.false_eq_true, reduceIte] at hreads
    exact (s.returnFromException_memory a nofun).trans hreads
  | rtiViolation hi hm =>
    subst hi
    exact s.raisePrivilegeViolation_memory a (by simpa [storeAddrs, hm] using hstore)

end Sys2Proof.Machine

/-! ### The statements -/

namespace Sys2Proof.Proofs

open Sys2Proof.Machine

/-- Settles O20: what PUTS appends is a scan of at most 65,536 words. -/
theorem putsWritesUpToZeroWord : Obligations.PutsWritesUpToZeroWord := by
  refine ⟨fun _ h => decode_service_row h rfl, fun s => ?_⟩
  obtain ⟨n, hn, hbefore, hzero, hcodes⟩ := s.putsCodes_scan scanBound (s.reg .r0)
  exact ⟨n, hn, hbefore, hzero, congrArg (Host.Outcome.next ∘ s.consoleWrite) hcodes⟩

/-- Settles O22: what PUTSP appends is a scan of the two bytes each of at most 65,536 words. -/
theorem putspWritesUpToZeroByte : Obligations.PutspWritesUpToZeroByte := by
  refine ⟨fun _ h => decode_service_row h rfl, fun s => ?_⟩
  obtain ⟨n, hn, hbefore, hzero, hcodes⟩ := s.putspCodes_scan scanBound (s.reg .r0)
  exact ⟨n, hn, hbefore, hzero, congrArg (Host.Outcome.next ∘ s.consoleWrite) hcodes⟩

/-- Settles O38, over what a completing instruction can do. -/
theorem memoryWritersAreTheListed : Obligations.MemoryWritersAreTheListed :=
  fun _ _ _ h _ hstore hread => exec_memory h hstore hread

/-- Settles O46, over what a completing instruction can do. -/
theorem pcWritersAreTheListed : Obligations.PcWritersAreTheListed := fun _ _ _ h hpc => exec_pc h hpc

/-- Settles O18: a blocking read without echo. -/
theorem getcReadsCharacter : Obligations.GetcReadsCharacter := by
  refine ⟨fun _ h => decode_service_row h rfl, fun s c rest hin => ?_, fun s hin => readChar_blocks false hin⟩
  have htakes := readChar_takes false hin
  simp only [Bool.false_eq_true, reduceIte, List.append_nil] at htakes
  exact htakes

/-- Settles O19: the service is one console write. -/
theorem outWritesLowByte : Obligations.OutWritesLowByte :=
  ⟨fun _ h => decode_service_row h rfl, fun _ => rfl⟩

/-- Settles O21: a blocking read with echo, in the state the prompt leaves. -/
theorem inPromptsReadsEchoes : Obligations.InPromptsReadsEchoes :=
  ⟨fun _ h => decode_service_row h rfl,
    fun s _ _ hin => readChar_takes (s := s.consoleWrite Config.inPrompt) true hin,
    fun s hin => readChar_blocks (s := s.consoleWrite Config.inPrompt) true hin⟩

/-- Settles O23: the service is one console write and the halt, whatever the state. -/
theorem haltEndsRun : Obligations.HaltEndsRun :=
  ⟨fun _ h => decode_service_row h rfl, fun _ => rfl⟩

/-- Settles O24: the general row is the row of an undefined selector, and dispatches on the six others. -/
theorem trapDispatchesOnSelector : Obligations.TrapDispatchesOnSelector :=
  ⟨fun _ h hv => (decode_of_opcode_trap (opcodeOf_of_row h rfl)).trans (decodeTrap_eq_trap (trap_wf_iff.mpr hv)),
    fun s => ⟨rfl, rfl, rfl, rfl, rfl, rfl, fun _ hv => execTrap_undefined (trap_wf_iff.mpr hv) s⟩⟩

/-- Settles O34: what one device-aware read leaves, and its word is read in that state. -/
theorem memReadPollsOnlyKbsr : Obligations.MemReadPollsOnlyKbsr :=
  fun s a => ⟨s.afterRead_leaves a, s.memRead_word a⟩

end Sys2Proof.Proofs
end


section
/-! PROOFS. Family 45_rti: what a run from launch keeps of the privilege state (R35, R193). The load interface writes
memory only, so a launched state is the reset state in User mode; there the only instruction that writes `psw` is RTI,
and it halts the core. -/

namespace Sys2Proof.Machine

/-! ### Launched states (R240, R245) -/

/-- Loading an image changes memory only. -/
theorem State.loadImage_eq (s : State) (a : Word) (image : List Word) :
    s.loadImage a image = { s with mem := (s.loadImage a image).mem } := by
  induction image generalizing s a with
  | nil => rfl
  | cons w ws ih => exact ih (s.memWrite a w) (a + 1#16)

/-- A launched state is a state right after reset with some memory. -/
theorem Launched.exists_boot {s : State} (h : Launched s) : ∃ origin pswLow input pollAnswers mem,
    s = { State.boot origin pswLow input pollAnswers with mem := mem } := by
  obtain ⟨origin, image, pswLow, input, pollAnswers, h⟩ := h
  unfold launch at h
  split at h
  · cases h
    exact ⟨origin, pswLow, input, pollAnswers, _, State.loadImage_eq _ _ _⟩
  · cases h

theorem Launched.userRun {s : State} (h : Launched s) : UserRun s.psw s := by
  obtain ⟨origin, pswLow, input, pollAnswers, mem, rfl⟩ := h.exists_boot
  exact ⟨rfl, rfl, State.boot_psw_mode origin pswLow input pollAnswers, fun _ => rfl⟩

/-! ### Steps in User mode (R35, R37, R193) -/

@[simp] theorem State.fetch_ssp (s : State) : s.fetch.2.ssp = s.ssp := by simp [State.fetch_eq]
@[simp] theorem State.fetch_usp (s : State) : s.fetch.2.usp = s.usp := by simp [State.fetch_eq]

/-- In User mode an instruction that completes halts the core or leaves `psw`. -/
theorem exec_psw_of_userMode {i : Instr} {s t : State} (h : exec i s = .next t) (hmode : s.userMode = true)
    (hr : t.running = true) : t.psw = s.psw := by
  obtain ⟨-, -, hpsw⟩ := exec_privilege h
  cases exec_run h with
  | halted _ hhalt | violated _ _ hhalt => exact nomatch hhalt.symm.trans hr
  | kept _ hrti => exact hpsw fun hi => nomatch (hrti hi).symm.trans hmode

theorem fetch_userRun {p : Word} {s : State} (hs : UserRun p s) : UserRun p s.fetch.2 where
  ssp := s.fetch_ssp.trans hs.ssp
  usp := s.fetch_usp.trans hs.usp
  user := hs.user
  psw := by simpa using hs.psw

theorem exec_userRun {p : Word} {i : Instr} {s t : State} (hs : UserRun p s) (hr : s.running = true)
    (h : exec i s = .next t) : UserRun p t := by
  obtain ⟨hssp, husp, -⟩ := exec_privilege h
  have hmode : s.userMode = true := by rw [State.userMode, hs.psw hr, hs.user]
  exact ⟨hssp.trans hs.ssp, husp.trans hs.usp, hs.user,
    fun ht => (exec_psw_of_userMode h hmode ht).trans (hs.psw hr)⟩

theorem step_userRun {p : Word} {s t : State} (hs : UserRun p s) (h : step s = .next t) : UserRun p t := by
  obtain ⟨hr, he⟩ := step_next h
  exact exec_userRun (fetch_userRun hs) (s.fetch_running.trans hr) he

theorem Launched.run_userRun {s t : State} {k : Nat} (hs : Launched s)
    (h : Host.Core.run Sys2Proof.core k s = .next t) : UserRun s.psw t :=
  Laws.run_induction (fun _ _ => step_userRun) hs.userRun h

end Sys2Proof.Machine

/-! ### The statement -/

namespace Sys2Proof.Proofs

open Sys2Proof.Machine

/-- Settles O58: a step keeps `UserRun`, launch establishes it, and a run from launch ends in it. -/
theorem launchedRunsStayInUserMode : Obligations.LaunchedRunsStayInUserMode := by
  refine ⟨fun _ _ _ => step_userRun, fun _ => Launched.userRun, fun s t k hs h => ?_⟩
  have ht := hs.run_userRun h
  exact ⟨ht.ssp, ht.usp, fun hr => ⟨ht.psw hr, (ht.psw hr).symm ▸ ht.user⟩⟩

end Sys2Proof.Proofs
end

section
/-! PROOFS. Family 60_exceptions: what the privilege mode decides (R216, R217), the console streams (R221 to R223), and
what a halted core shows (R226, R227, R249). That the mode decides nothing but RTI is proved operation by operation:
replacing `psw` commutes with each shared operation an instruction uses. -/

namespace Sys2Proof.Machine

namespace State

/-! ### Replacing `psw` commutes with the shared operations (R216) -/

section SetPsw

variable (s : State) (p : Word)

theorem loadInto_setPsw (dr : Reg) (ea : Word) : (s.setPsw p).loadInto dr ea = (s.loadInto dr ea).setPsw p := by
  rw [loadInto, memRead, afterRead_setPsw]
  rfl

theorem putsCodes_setPsw (n : Nat) (a : Word) : (s.setPsw p).putsCodes n a = s.putsCodes n a := by
  induction n generalizing a with
  | zero => rfl
  | succ n ih => rw [putsCodes, putsCodes, ih, setPsw_memPeek]

theorem putspCodes_setPsw (n : Nat) (a : Word) : (s.setPsw p).putspCodes n a = s.putspCodes n a := by
  induction n generalizing a with
  | zero => rfl
  | succ n ih => rw [putspCodes, putspCodes, ih, setPsw_memPeek]

theorem readChar_setPsw (echo : Bool) : (s.setPsw p).readChar echo = withPsw (s.readChar echo) p := by
  cases h : s.input with
  | nil => rw [readChar_blocks echo h, readChar_blocks (s := s.setPsw p) echo h]; rfl
  | cons c rest => rw [readChar_takes echo h, readChar_takes (s := s.setPsw p) echo h]; rfl

theorem servicePuts_setPsw : (s.setPsw p).servicePuts = withPsw s.servicePuts p := by
  rw [servicePuts, putsCodes_setPsw]
  rfl

theorem servicePutsp_setPsw : (s.setPsw p).servicePutsp = withPsw s.servicePutsp p := by
  rw [servicePutsp, putspCodes_setPsw]
  rfl

end SetPsw

/-! ### The console streams (R222, R223) and the PC, across device-aware reads and the fetch -/

theorem afterReads_input (s : State) (as : List Word) : (s.afterReads as).input <:+ s.input := by
  induction as generalizing s with
  | nil => exact List.suffix_refl _
  | cons a as ih => exact (ih (s.afterRead a)).trans (s.afterRead_input a)

theorem fetch_input (s : State) : s.fetch.2.input <:+ s.input := by
  rw [fetch_eq]
  exact s.afterRead_input s.pc

@[simp] theorem fetch_output (s : State) : s.fetch.2.output = s.output := by simp [fetch_eq]
@[simp] theorem fetch_pc (s : State) : s.fetch.2.pc = s.pc + 1#16 := by simp [fetch_eq]

theorem returnFromException_input (s : State) : s.returnFromException.input <:+ s.input := by
  rw [returnFromException_updates]
  exact s.afterReads_input _

@[simp] theorem returnFromException_output (s : State) : s.returnFromException.output = s.output := by
  simp [returnFromException_updates]

/-! ### The poll's answer (R221, D23) -/

theorem consolePoll_nil {s : State} (h : s.input = []) : s.consolePoll = none := by
  rw [consolePoll, h]

theorem consolePoll_cons {s : State} {c : Byte} {rest : List Byte} (h : s.input = c :: rest) :
    s.consolePoll = if s.hostAnswer then some c else none := by
  rw [consolePoll, h]

theorem hostAnswer_cons {s : State} {b : Bool} {more : List Bool} (h : s.pollAnswers = b :: more) :
    s.hostAnswer = b := by
  rw [hostAnswer, h]

end State

/-! ### The mode decides nothing but RTI (R216, R217) -/

theorem exec_br_setPsw (nzp : BitVec 3) (off9 : BitVec 9) (s : State) (p : Word) :
    exec (.br nzp off9) (s.setPsw p) = withPsw (exec (.br nzp off9) s) p := by
  rw [exec_br, exec_br]
  rfl

theorem execTrap_setPsw (v : BitVec 8) (s : State) (p : Word) :
    execTrap v (s.setPsw p) = withPsw (execTrap v s) p := by
  obtain ⟨rfl, -⟩ | ⟨rfl, -⟩ | ⟨rfl, -⟩ | ⟨rfl, -⟩ | ⟨rfl, -⟩ | ⟨rfl, -⟩ | ⟨hv, e⟩ := execTrap_cases v s
  · exact s.readChar_setPsw p false
  · rfl
  · exact s.servicePuts_setPsw p
  · exact (s.consoleWrite Config.inPrompt).readChar_setPsw p true
  · exact s.servicePutsp_setPsw p
  · rfl
  · rw [e, execTrap_undefined (trap_wf_iff.mpr hv)]
    rfl

/-- Every instruction but RTI commutes with replacing `psw`. -/
theorem exec_setPsw {i : Instr} (hi : i ≠ .rti) (s : State) (p : Word) :
    exec i (s.setPsw p) = withPsw (exec i s) p := by
  cases i with
  | rti => exact absurd rfl hi
  | addReg | addImm | andReg | andImm | not | lea | st | str | jmp | jsr | jsrr | reserved | trapOut | trapHalt => rfl
  | br nzp off9 => exact exec_br_setPsw nzp off9 s p
  | ld dr off9 => exact congrArg Host.Outcome.next (s.loadInto_setPsw p dr _)
  | ldr dr base off6 => exact congrArg Host.Outcome.next (s.loadInto_setPsw p dr _)
  | ldi dr off9 =>
    rw [exec_ldi, exec_ldi, State.afterRead_setPsw]
    exact congrArg Host.Outcome.next (State.loadInto_setPsw _ p dr _)
  | sti sr off9 =>
    rw [exec_sti, exec_sti, State.afterRead_setPsw]
    rfl
  | trapGetc => exact s.readChar_setPsw p false
  | trapIn => exact (s.consoleWrite Config.inPrompt).readChar_setPsw p true
  | trapPuts => exact s.servicePuts_setPsw p
  | trapPutsp => exact s.servicePutsp_setPsw p
  | trap v => exact execTrap_setPsw v s p

/-- A step that changes `psw` runs RTI. -/
theorem step_rti_of_psw_ne {s t : State} (h : step s = .next t) (hpsw : t.psw ≠ s.psw) :
    decode s.fetch.1 = .rti := by
  obtain ⟨-, he⟩ := step_next h
  obtain ⟨-, -, hkeep⟩ := exec_privilege he
  by_contra hi
  exact hpsw ((hkeep hi).trans s.fetch_psw)

/-- A step that runs RTI in User mode is the violation. -/
theorem step_rti_user {s t : State} (h : step s = .next t) (hi : decode s.fetch.1 = .rti)
    (hmode : s.psw.getLsbD 15 = true) : t = s.fetch.2.raisePrivilegeViolation := by
  obtain ⟨-, he⟩ := step_next h
  have huser : s.fetch.2.userMode = true := by rw [State.userMode, State.fetch_psw, hmode]
  rw [hi, exec_rti_user huser] at he
  cases he
  rfl

/-! ### The console streams move forward (R222, R223) -/

/-- A completing instruction only takes characters from the front of the input. -/
theorem exec_input {i : Instr} {s t : State} (h : exec i s = .next t) : t.input <:+ s.input := by
  cases exec_effect h with
  | result | store => exact s.afterReads_input _
  | jump | link | write | halt | rtiViolation => exact List.suffix_refl _
  | rtiReturn => exact s.returnFromException_input
  | readChar => exact List.tail_suffix s.input

/-- A completing instruction only adds codes to the end of the output. -/
theorem exec_output {i : Instr} {s t : State} (h : exec i s = .next t) : s.output <+: t.output := by
  cases exec_effect h with
  | result | store | rtiReturn => simp [State.writeDest_eq]
  | jump | link | rtiViolation => exact List.prefix_refl _
  | write | halt => exact List.prefix_append _ _
  | readChar => exact (List.prefix_append _ _).trans (List.prefix_append _ _)

/-! ### What a halting step leaves (R226, R227) -/

/-- The violation's whole frame, both stack pointers being 0: the two pushes wrap to the top of memory (R203, R249). -/
theorem raisePrivilegeViolation_report {p : Word} {s : State} (hs : UserRun p s) (hr : s.running = true) :
    HaltReport p s.pc s.raisePrivilegeViolation := by
  have hr6 := s.raisePrivilegeViolation_r6
  have hpsw := s.raisePrivilegeViolation_savedPsw
  have hpc := s.raisePrivilegeViolation_savedPc
  rw [hs.ssp] at hr6 hpsw hpc
  exact .violation rfl (by simp [hs.psw hr]) rfl hr6 hpsw hpc

/-- An instruction that halts a running core is HALT or RTI in User mode, and leaves the report of that. -/
theorem exec_haltReport {p : Word} {i : Instr} {s t : State} (hs : UserRun p s) (hr : s.running = true)
    (h : exec i s = .next t) (ht : t.running = false) : HaltReport p s.pc t := by
  cases exec_effect h with
  | halt => exact .normal rfl (hs.psw hr) rfl
  | rtiViolation => exact raisePrivilegeViolation_report hs hr
  | result | store | jump | link | rtiReturn | readChar | write => simp [State.writeDest_eq, hr] at ht

theorem step_haltReport {p : Word} {s t : State} (hs : UserRun p s) (h : step s = .next t)
    (ht : t.running = false) : HaltReport p (s.pc + 1#16) t := by
  obtain ⟨hr, he⟩ := step_next h
  rw [← s.fetch_pc]
  exact exec_haltReport (fetch_userRun hs) (s.fetch_running.trans hr) he ht

theorem Launched.running {s : State} (h : Launched s) : s.running = true := by
  obtain ⟨origin, pswLow, input, pollAnswers, mem, rfl⟩ := h.exists_boot
  rfl

end Sys2Proof.Machine

namespace Sys2Proof.Laws

open Sys2Proof.Machine

section AnyCore

variable {M : Host.Core} {k : Nat} {s t : M.State}

/-- A run of `k + 1` steps that goes through is one first step and a run of `k` steps. -/
theorem anyCore_run_first (h : M.run (k + 1) s = .next t) : ∃ u, M.step s = .next u ∧ M.run k u = .next t := by
  cases hs : M.step s with
  | next u => exact ⟨u, rfl, (anyCore_run_next hs).symm.trans h⟩
  | fault f => exact nomatch (anyCore_run_fault hs).symm.trans h
  | refused r => exact nomatch (anyCore_run_refused hs).symm.trans h

/-- A run of `k + 1` steps that goes through is a run of `k` steps and one last step. -/
theorem anyCore_run_last (h : M.run (k + 1) s = .next t) : ∃ u, M.run k s = .next u ∧ M.step u = .next t := by
  induction k generalizing s with
  | zero =>
    obtain ⟨u, hs, hu⟩ := anyCore_run_first h
    cases hu
    exact ⟨s, rfl, hs⟩
  | succ k ih =>
    obtain ⟨v, hs, hv⟩ := anyCore_run_first h
    obtain ⟨u, hrun, hlast⟩ := ih hv
    exact ⟨u, (anyCore_run_next hs).trans hrun, hlast⟩

end AnyCore

theorem run_last {k : Nat} {s t : State} (h : Host.Core.run Sys2Proof.core (k + 1) s = .next t) :
    ∃ u : State, Host.Core.run Sys2Proof.core k s = .next u ∧ step u = .next t :=
  anyCore_run_last (M := Sys2Proof.core) h

end Sys2Proof.Laws

/-! ### The statements -/

namespace Sys2Proof.Proofs

open Sys2Proof.Machine

/-- Settles O36: with a character left the poll hands on the host's answer, which is the next listed one. -/
theorem pollAnswersAreTheHosts : Obligations.PollAnswersAreTheHosts := by
  refine fun _ => ⟨State.consolePoll_nil, fun _ _ hin => ?_⟩
  rw [State.consolePoll_cons hin]
  refine ⟨ite_eq_or_eq .., fun more hyes => ?_, fun more hno => ?_⟩
  · rw [State.hostAnswer_cons hyes, if_pos rfl]
  · rw [State.hostAnswer_cons hno, if_neg Bool.false_ne_true]

/-- Settles O49: `psw` commutes with every instruction but RTI, and RTI looks at its bit 15. -/
theorem modeMattersOnlyToRti : Obligations.ModeMattersOnlyToRti := by
  refine ⟨fun _ s p hi => exec_setPsw hi s p, fun s => ?_⟩
  cases hmode : s.psw.getLsbD 15 with
  | true => exact exec_rti_user hmode
  | false => exact exec_rti_supervisor hmode

/-- Settles O50: a step whose mode changes runs RTI, and RTI in User mode is the violation. -/
theorem modeChangesOnlyByRti : Obligations.ModeChangesOnlyByRti := by
  intro s t h
  have hrti (hne : t.psw.getLsbD 15 ≠ s.psw.getLsbD 15) : decode s.fetch.1 = .rti :=
    step_rti_of_psw_ne h fun heq => hne (by rw [heq])
  constructor
  · intro hs ht
    have hi := hrti (by rw [hs, ht]; decide)
    obtain rfl := step_rti_user h hi hs
    exact ⟨hi, rfl, rfl, rfl⟩
  · intro hs ht
    exact hrti (by rw [hs, ht]; decide)

/-- Settles O51: the fetch may take a character from the input, and the instruction moves both streams forward. -/
theorem consoleStreamsMoveForward : Obligations.ConsoleStreamsMoveForward := by
  intro s t h
  obtain ⟨-, he⟩ := step_next h
  exact ⟨(exec_input he).trans s.fetch_input, s.fetch_output ▸ exec_output he⟩

/-- Settles O59: a halting step from `UserRun` leaves the report, and a halted run from launch, which starts running
and stays in `UserRun`, ends with such a step. -/
theorem haltedRunsShowTheirReason : Obligations.HaltedRunsShowTheirReason := by
  refine ⟨fun _ _ _ => step_haltReport, fun s t k hs h ht => ?_⟩
  cases k with
  | zero =>
    cases h
    exact nomatch hs.running.symm.trans ht
  | succ j =>
    obtain ⟨u, hrun, hlast⟩ := Laws.run_last h
    exact ⟨j, u, rfl, hrun, hlast, step_haltReport (hs.run_userRun hrun) hlast ht⟩

end Sys2Proof.Proofs
end

section
/-! PROOFS. Family 70_reset_and_hazards: the load interface (R240 to R245). A launch is the reset state with the image
stored word by word, so what memory holds and that the invariant holds both follow store by store. -/

namespace Sys2Proof.Machine

/-! ### Loading an image (R242, R243) -/

/-- An image that ends below the top of memory does not wrap: the addresses before and after it keep their words. -/
theorem State.loadImage_load_outside (s : State) (a : Word) {image : List Word}
    (hfit : a.toNat + image.length ≤ 0x10000) {b : Nat} (hb : b < a.toNat ∨ a.toNat + image.length ≤ b) :
    (s.loadImage a image).mem.load b = s.mem.load b := by
  induction image generalizing s a with
  | nil => rfl
  | cons w ws ih =>
    rw [List.length_cons] at hfit hb
    have hnext : (a + 1#16).toNat = (a.toNat + 1) % 0x10000 := a.toNat_add 1#16
    rw [State.loadImage, ih (s.memWrite a w) (a + 1#16) (by omega) (by omega), State.memWrite_mem,
      Memory.load_store, if_neg (by omega)]

/-- Word `k` of an image that fits is stored `k` addresses above its start: the later words go to other addresses. -/
theorem State.loadImage_load_word (s : State) (a : Word) {image : List Word}
    (hfit : a.toNat + image.length ≤ 0x10000) {k : Nat} (hk : k < image.length) :
    (s.loadImage a image).mem.load (a.toNat + k) = image.getD k 0 := by
  induction image generalizing s a k with
  | nil => exact nomatch hk
  | cons w ws ih =>
    rw [List.length_cons] at hfit hk
    have hnext : (a + 1#16).toNat = (a.toNat + 1) % 0x10000 := a.toNat_add 1#16
    rw [State.loadImage]
    cases k with
    | zero =>
      rw [State.loadImage_load_outside _ _ (by omega) (by omega), State.memWrite_mem, Memory.load_store,
        if_pos (Nat.add_zero _), List.getD_cons_zero]
    | succ j =>
      have haddr : a.toNat + (j + 1) = (a + 1#16).toNat + j := by omega
      rw [haddr, ih _ _ (by omega) (by omega), List.getD_cons_succ]

theorem State.memWrite_inv {s : State} (hs : s.Inv) (a v : Word) : (s.memWrite a v).Inv :=
  { hs with memory := State.memWrite_wf hs.memory a v }

theorem State.loadImage_inv {s : State} (hs : s.Inv) (a : Word) (image : List Word) :
    (s.loadImage a image).Inv := by
  induction image generalizing s a with
  | nil => exact hs
  | cons w ws ih => exact ih (State.memWrite_inv hs a w) (a + 1#16)

/-! ### Launch (R240, R243) -/

/-- A launched state is the reset state with the image loaded at the origin. -/
theorem launch_next {origin : Word} {image : List Word} {pswLow : BitVec 15} {input : List Byte}
    {pollAnswers : List Bool} {s : State} (h : launch origin image pswLow input pollAnswers = .next s) :
    s = (State.boot origin pswLow input pollAnswers).loadImage origin image := by
  unfold launch at h
  split at h
  · cases h; rfl
  · cases h

theorem Launched.inv {s : State} (h : Launched s) : s.Inv := by
  obtain ⟨origin, image, pswLow, input, pollAnswers, h⟩ := h
  rw [launch_next h]
  exact State.loadImage_inv (boot_inv origin pswLow input pollAnswers) origin image

/-! ### Image files (R65, R242, R245) -/

/-- R65: the first byte of a pair is the high half of its word. -/
theorem append_eq_bigEndian (hi lo : Byte) : hi ++ lo = BitVec.ofNat 16 (hi.toNat * 256 + lo.toNat) := by
  apply BitVec.eq_of_toNat_eq
  have hhi := hi.isLt
  have hlo := lo.isLt
  rw [BitVec.toNat_append, ← Nat.shiftLeft_add_eq_or_of_lt hlo, Nat.shiftLeft_eq, BitVec.toNat_ofNat,
    Nat.mod_eq_of_lt (by omega)]

theorem wordsOfBytes_pairs (pairs : List (Byte × Byte)) :
    wordsOfBytes (pairs.flatMap fun w => [w.1, w.2]) =
      some (pairs.map fun w => BitVec.ofNat 16 (w.1.toNat * 256 + w.2.toNat)) := by
  induction pairs with
  | nil => rfl
  | cons w ws ih =>
    simp only [List.flatMap_cons, List.cons_append, List.nil_append, wordsOfBytes, ih, Option.map_some,
      List.map_cons, append_eq_bigEndian]

theorem wordsOfBytes_odd {bytes : List Byte} (h : bytes.length % 2 = 1) : wordsOfBytes bytes = none := by
  induction bytes using wordsOfBytes.induct with
  | case1 => exact nomatch h
  | case2 b => rfl
  | case3 hi lo rest ih =>
    rw [List.length_cons, List.length_cons] at h
    rw [wordsOfBytes, ih (by omega), Option.map_none]

end Sys2Proof.Machine

/-! ### The statements -/

namespace Sys2Proof.Proofs

open Sys2Proof.Machine

/-- Settles O55: the memory is the loaded one, the reset state's being zero wherever the image does not reach. -/
theorem launchLoadsImage : Obligations.LaunchLoadsImage := by
  intro origin image pswLow input pollAnswers
  constructor
  · intro hfit
    refine ⟨((State.boot origin pswLow input pollAnswers).loadImage origin image).mem, ?_,
      fun k hk => State.loadImage_load_word _ origin hfit hk,
      fun a ha => State.loadImage_load_outside _ origin hfit ha⟩
    rw [launch, if_pos hfit, ← State.loadImage_eq]
  · intro hlong
    rw [launch, if_neg (by omega)]

/-- Settles O56: the words of a file of byte pairs are theirs, and an odd file has none. -/
theorem launchFileIsBigEndian : Obligations.LaunchFileIsBigEndian := by
  refine ⟨fun words origin pswLow input pollAnswers => ?_, fun bytes pswLow input pollAnswers h => ?_,
    fun pswLow input pollAnswers => rfl⟩
  · rw [launchFile, wordsOfBytes_pairs, List.map_cons]
  · rw [launchFile, wordsOfBytes_odd h]

/-- Settles O57: the reset state has the invariant and every store of the image keeps it. -/
theorem launchedHasInvariant : Obligations.LaunchedHasInvariant := fun _ => Launched.inv

end Sys2Proof.Proofs
end
